-- ==== Sys2Proof/Word.lean ====
section
/-! DEFINITION. The words of the block: bytes, 16-bit headers, 32-bit mask latches (00_scope.md R7). -/

namespace Sys2Proof

/-- `u8` of 00_scope.md R7: a byte on the wire, in a buffer, or a raw register or sub-register byte. -/
abbrev Byte := BitVec 8

/-- `u16` of 00_scope.md R7: a header, "represented in a width sufficient for the largest mode" (R81). -/
abbrev Half := BitVec 16

/-- `u32` of 00_scope.md R7: wide enough for the widest mask (R15, latches `AMASK` and `OMASK`). -/
abbrev MaskWord := BitVec 32

end Sys2Proof
end

