-- ==== Sys2Proof/Config.lean ====
section
/-! DEFINITION. What one instance of the block fixes (00_scope.md R5) and the free values the spec leaves open.
The default values, the constraints on them and the tables a test could show wrong stand in Decode.lean. -/

namespace Sys2Proof

/-- TransactionKind: "one of the eight modes" (00_scope.md section 7; 90_conflicts.md C2), in the order of KIND_CODE (R80). -/
inductive Kind where
  | fastCommand
  | shortRead
  | shortWrite
  | fullRead
  | fullWrite
  | maskedWrite1
  | maskedWrite2
  | maskedWrite4
  deriving DecidableEq, Repr, Inhabited

/-- Which byte of a value of several bytes comes first (parameters HEADER_BYTE_ORDER, MASK_BYTE_ORDER, BUFFER_BYTE_ORDER of R5). -/
inductive ByteOrder where
  | lowFirst
  | highFirst
  deriving DecidableEq, Repr, Inhabited

/-- TXBUF_MODE of R5: the write kind that `WRITE_TX_BUFFER` uses (R122). -/
inductive TxBufMode where
  | short
  | full
  deriving DecidableEq, Repr, Inhabited

/-- BUSCFG of R25: "clock rate, bit order, mode", "a fixed configuration the core supplies once at startup".
No rule reads inside it, so its three entries are plain codes. -/
structure BusCfg where
  clockRate : Nat
  bitOrder  : Nat
  mode      : Nat
  deriving DecidableEq, Repr, Inhabited

/-- TAG of R5: the "fixed bit-pattern tag" of each kind. -/
structure TagTable where
  fastCommand  : Half
  shortRead    : Half
  shortWrite   : Half
  fullRead     : Half
  fullWrite    : Half
  maskedWrite1 : Half
  maskedWrite2 : Half
  maskedWrite4 : Half
  deriving DecidableEq, Repr, Inhabited

/-- KIND_CODE of R5: the number of each kind on the raw kind input of `ENCODE_HEADER` (D13). -/
structure KindCodes where
  fastCommand  : Nat
  shortRead    : Nat
  shortWrite   : Nat
  fullRead     : Nat
  fullWrite    : Nat
  maskedWrite1 : Nat
  maskedWrite2 : Nat
  maskedWrite4 : Nat
  deriving DecidableEq, Repr, Inhabited

/-- The parameters of R5 that an instance chooses: constants, not reset (R30), the same before and after every
operation (R150), one set for each device handle (R159). What the source itself fixes (the field widths, the header
widths, the mask widths, the clamp, the codec's byte order) is no field here but a definition of Decode.lean. -/
structure Config where
  /-- `W`, the width of the codec's scalar (92_eei_decisions.md D1). -/
  scalarBits  : Nat
  /-- `TAG` (D2). -/
  tags        : TagTable
  /-- `HEADER_BYTE_ORDER` (D3). -/
  headerOrder : ByteOrder
  /-- `MASK_BYTE_ORDER` (D4). -/
  maskOrder   : ByteOrder
  /-- `READ_FILL` (D5). -/
  readFill    : Byte
  /-- `DEV_ID_REG` (D18). -/
  devIdReg    : Byte
  /-- `DEV_ID_SUB` (D18). -/
  devIdSub    : Byte
  /-- `TXBUF_MODE`, OPEN (D17). -/
  txBufMode   : TxBufMode
  /-- `TXBUF_REG`, OPEN (D17). -/
  txBufReg    : Byte
  /-- `TXBUF_SUB`, OPEN (D17). -/
  txBufSub    : Byte
  /-- `BUSCFG`, OPEN (D22). -/
  busCfg      : BusCfg
  /-- `N_MAX` (D20): the largest byte count the command interface can carry; `none` while it is unbounded. -/
  nMax        : Option Nat
  /-- `KIND_CODE` (D13). -/
  kindCodes   : KindCodes
  deriving DecidableEq, Repr

/-! The OPEN parameters have no default: what an instance has there after reset is a constant without a body
(notes/assumptions/5.md). -/

/-- TXBUF_MODE after reset: OPEN (D17). -/
opaque Config.openTxBufMode : TxBufMode

/-- TXBUF_REG after reset: OPEN (D17). -/
opaque Config.openTxBufReg : Byte

/-- TXBUF_SUB after reset: OPEN (D17). -/
opaque Config.openTxBufSub : Byte

/-- BUSCFG after reset: OPEN (D22). -/
opaque Config.openBusCfg : BusCfg

/-! Free values, "a draw under no law" (R11): each is a constant without a body, applied to the number of the draw
(the counter `draws` of State) and to a position (notes/assumptions/3.md, 4.md, 9.md). -/

/-- A free kind: what the latch KIND holds once PHASE is Idle again (R15). -/
opaque Config.freeKind (draw : Nat) : Kind

/-- A free byte: what REG and SUB hold once PHASE is Idle again (R15), a byte of a destination buffer after a failed
read (R111), a byte the environment's answer leaves out (R22). -/
opaque Config.freeByte (draw position : Nat) : Byte

/-- A free 16-bit value: what HDR holds once PHASE is Idle again (R15). -/
opaque Config.freeHalf (draw : Nat) : Half

/-- A free 32-bit value: what AMASK and OMASK hold once PHASE is Idle again (R15). -/
opaque Config.freeMask (draw position : Nat) : MaskWord

/-- A free natural number: what HLEN and LEN hold once PHASE is Idle again (R15). -/
opaque Config.freeNat (draw position : Nat) : Nat

end Sys2Proof
end

