-- ==== Sys2Proof/Syntax.lean ====
section
/-! DEFINITION. The sixteen operations of spec/opcode_table.json as the one inductive `Instr`, the raw command the
caller presents (10_state.md R19), and the names (30_encoding.md R67). -/

namespace Sys2Proof

/-- A caller-owned byte buffer (20_memory.md R33): which buffer it is, and `len(buf)`, "the number of bytes the caller
made available" (R9). Its bytes stand in State's memory, at (buffer, index). -/
structure Buf where
  id  : Nat
  len : Nat
  deriving DecidableEq, Repr, Inhabited

/-- The operations of spec/opcode_table.json with the operands of 30_encoding.md R67, one constructor a row. A scalar
of the codec is a natural number, since its width `W` is a parameter (D1). -/
inductive Instr where
  | fastCommand (cmd : Byte)
  | shortRead (reg : Byte) (out : Buf) (n : Nat)
  | shortWrite (reg : Byte) (buffer : Buf) (n : Nat)
  | fullRead (reg sub : Byte) (out : Buf) (n : Nat)
  | fullWrite (reg sub : Byte) (buffer : Buf) (n : Nat)
  | maskedWrite1 (reg sub : Byte) (andMask orMask : BitVec 8)
  | maskedWrite2 (reg sub : Byte) (andMask orMask : BitVec 16)
  | maskedWrite4 (reg sub : Byte) (andMask orMask : BitVec 32)
  | bitAt (value position : Nat)
  | bitsInRange (value low high : Nat)
  | bitsInBuffer (buffer : Buf) (low high : Nat)
  | encodeHeader (kindRaw : Nat) (reg sub : Byte)
  | getDeviceId
  | writeTxBuffer (buffer : Buf) (n : Nat)
  | writeTxbOffset
  | readTxbOffset
  deriving DecidableEq, Repr

/-- `op` of R19: the operation's name. "The command interface carries only the names of 30_encoding.md rule R67" (R131). -/
inductive Op where
  | fastCommand
  | shortRead
  | shortWrite
  | fullRead
  | fullWrite
  | maskedWrite1
  | maskedWrite2
  | maskedWrite4
  | bitAt
  | bitsInRange
  | bitsInBuffer
  | encodeHeader
  | getDeviceId
  | writeTxBuffer
  | writeTxbOffset
  | readTxbOffset
  deriving DecidableEq, Repr, Inhabited

/-- The command interface of R19: one operation's name and the union of the operations' parameters. An operation
looks at its own operands only. The masks and the scalar stand here as natural numbers, so that one too wide for its
operand can be presented (and refused, R108). -/
structure Command where
  op       : Op
  kindRaw  : Nat  := 0
  reg      : Byte := 0#8
  sub      : Byte := 0#8
  n        : Nat  := 0
  buf      : Buf  := ⟨0, 0⟩
  andMask  : Nat  := 0
  orMask   : Nat  := 0
  value    : Nat  := 0
  position : Nat  := 0
  low      : Nat  := 0
  high     : Nat  := 0
  deriving DecidableEq, Repr

/-- The name under which an operation is presented (R67). -/
def Instr.op : Instr → Op
  | .fastCommand _ => .fastCommand
  | .shortRead _ _ _ => .shortRead
  | .shortWrite _ _ _ => .shortWrite
  | .fullRead _ _ _ _ => .fullRead
  | .fullWrite _ _ _ _ => .fullWrite
  | .maskedWrite1 _ _ _ _ => .maskedWrite1
  | .maskedWrite2 _ _ _ _ => .maskedWrite2
  | .maskedWrite4 _ _ _ _ => .maskedWrite4
  | .bitAt _ _ => .bitAt
  | .bitsInRange _ _ _ => .bitsInRange
  | .bitsInBuffer _ _ _ => .bitsInBuffer
  | .encodeHeader _ _ _ => .encodeHeader
  | .getDeviceId => .getDeviceId
  | .writeTxBuffer _ _ => .writeTxBuffer
  | .writeTxbOffset => .writeTxbOffset
  | .readTxbOffset => .readTxbOffset

end Sys2Proof
end

