-- ==== Sys2Proof/WellFormed.lean ====
section
/-! DEFINITION. Which operations can be presented at all: an operand fits the type R67 gives it. -/

namespace Sys2Proof

/-- `N_MAX` of R5: the command interface can carry the byte count `n`. Under the default, an unbounded natural, it carries
every one (D20). -/
def Config.carries (c : Config) (n : Nat) : Bool :=
  match c.nMax with
  | none => true
  | some m => decide (n ≤ m)

/-- The scalar operand of `BIT_AT` and `BITS_IN_RANGE` is a `uW` (R71, R72): it is below 2^W. A byte count
is one the command interface can carry (N_MAX of R5; notes/assumptions/25.md). The other operands have their widths in
their types; a position or a range outside the scalar is refused by the operation itself (R71 to R73). -/
def Instr.wellFormed (c : Config) : Instr → Bool
  | .bitAt value _ => decide (value < 2 ^ c.scalarBits)
  | .bitsInRange value _ _ => decide (value < 2 ^ c.scalarBits)
  | .fastCommand _ => true
  | .shortRead _ _ n => c.carries n
  | .shortWrite _ _ n => c.carries n
  | .fullRead _ _ _ n => c.carries n
  | .fullWrite _ _ _ n => c.carries n
  | .maskedWrite1 _ _ _ _ => true
  | .maskedWrite2 _ _ _ _ => true
  | .maskedWrite4 _ _ _ _ => true
  | .bitsInBuffer _ _ _ => true
  | .encodeHeader _ _ _ => true
  | .getDeviceId => true
  | .writeTxBuffer _ n => c.carries n
  | .writeTxbOffset => true
  | .readTxbOffset => true

end Sys2Proof
end

