-- ==== Sys2Proof/Decode.lean ====
section
/-! DEFINITION. The encoding tables of the spec (30_encoding.md, 41_encoder.md, the defaults of 00_scope.md R5), the
header encoder and decoder, the decoder of a presented command and its encoder. -/

namespace Sys2Proof

/-! ### What the source fixes for each kind (00_scope.md R5) -/

/-- `REG_BITS` of R5. -/
def regBits : Nat := 5

/-- `SUB_BITS` of R5. -/
def subBits : Nat := 7

/-- `TXBUF_MAX` of R5: "clamps n to 1024 bytes". -/
def txBufMax : Nat := 1024

/-- `BUFFER_BYTE_ORDER` of R5: little-endian, and "the order cannot be switched" (20_memory.md R36). -/
def bufferByteOrder : ByteOrder := .lowFirst

/-- `TXCTRL_REG` of R5, an address the source mentions; no operation uses it by itself (R46). -/
def txCtrlReg : Byte := 0x00#8

/-- `TXCTRL_SUB` of R5. -/
def txCtrlSub : Byte := 0x24#8

/-- "There are two header formats and no other" (R51). -/
inductive Format where
  | h8
  | h16
  deriving DecidableEq, Repr, Inhabited

/-- The bits of a header of the format (R51). -/
def Format.bits : Format → Nat
  | .h8 => 8
  | .h16 => 16

/-- The format of each kind (R51; `HW` of R5). -/
def Kind.format : Kind → Format
  | .fastCommand => .h8
  | .shortRead => .h8
  | .shortWrite => .h8
  | .fullRead => .h16
  | .fullWrite => .h16
  | .maskedWrite1 => .h16
  | .maskedWrite2 => .h16
  | .maskedWrite4 => .h16

/-- `HLEN` of R15: the header's length in bytes, `HW[KIND] / 8`. -/
def Kind.headerBytes (k : Kind) : Nat := k.format.bits / 8

/-- `MW_BYTES` of R5; a kind that is no masked write sends no mask. -/
def Kind.maskBytes : Kind → Nat
  | .maskedWrite1 => 1
  | .maskedWrite2 => 2
  | .maskedWrite4 => 4
  | .fastCommand => 0
  | .shortRead => 0
  | .shortWrite => 0
  | .fullRead => 0
  | .fullWrite => 0

/-- The eight kinds, in the document's order (R80). -/
def Kind.all : List Kind :=
  [.fastCommand, .shortRead, .shortWrite, .fullRead, .fullWrite, .maskedWrite1, .maskedWrite2, .maskedWrite4]

/-- The number of a kind on the encoder's raw kind input (R63, R80). -/
def KindCodes.code (c : KindCodes) : Kind → Nat
  | .fastCommand => c.fastCommand
  | .shortRead => c.shortRead
  | .shortWrite => c.shortWrite
  | .fullRead => c.fullRead
  | .fullWrite => c.fullWrite
  | .maskedWrite1 => c.maskedWrite1
  | .maskedWrite2 => c.maskedWrite2
  | .maskedWrite4 => c.maskedWrite4

/-- The kind a raw number stands for: "any other value is unknown" (R80). -/
def KindCodes.kind (c : KindCodes) (kindRaw : Nat) : Option Kind := Kind.all.find? fun k => c.code k == kindRaw

/-- The numbering of R63 and R80: "0 to 7 in the document's order" (D13). -/
def KindCodes.standard : KindCodes where
  fastCommand  := 0
  shortRead    := 1
  shortWrite   := 2
  fullRead     := 3
  fullWrite    := 4
  maskedWrite1 := 5
  maskedWrite2 := 6
  maskedWrite4 := 7

/-- A numbering gives each kind a number of its own (notes/assumptions/25.md). -/
def KindCodes.legal (c : KindCodes) : Bool := decide ((Kind.all.map c.code).Nodup)

/-! ### The tag table (R5, R6, R60) -/

/-- `TAG[kind]`. -/
def TagTable.tag (t : TagTable) : Kind → Half
  | .fastCommand => t.fastCommand
  | .shortRead => t.shortRead
  | .shortWrite => t.shortWrite
  | .fullRead => t.fullRead
  | .fullWrite => t.fullWrite
  | .maskedWrite1 => t.maskedWrite1
  | .maskedWrite2 => t.maskedWrite2
  | .maskedWrite4 => t.maskedWrite4

/-- The default table of R5. Only FullRead's tag is the source's; the other seven are the spec's general knowledge
(D2, 93_implementation_defined.md G2; notes/assumptions/15.md). -/
def TagTable.standard : TagTable where
  fastCommand  := 0x0081#16
  shortRead    := 0x0000#16
  shortWrite   := 0x0080#16
  fullRead     := 0x4000#16
  fullWrite    := 0xC000#16
  maskedWrite1 := 0xC001#16
  maskedWrite2 := 0xC002#16
  maskedWrite4 := 0xC003#16

/-- The bit positions no field of the format occupies: the mask column of R60. -/
def Format.tagMask : Format → Half
  | .h8 => 0x00C1#16
  | .h16 => 0xC003#16

/-- The three constraints of R6: an 8-bit tag is below 0x100 and has no bit in 5:1, a 16-bit tag has no bit in 13:2, and
two kinds of the same header width have different tags. DESIGN CHOICE, safe: a table in which no kind has the tag 0 is
admitted, although R61 derives that the document's own table has one; D28 refuses on the constraints of R6 only,
and so is a table whose FullRead tag is not the document's 0x4000 (notes/assumptions/27.md). -/
def TagTable.legal (t : TagTable) : Bool :=
  (Kind.all.all fun k => t.tag k &&& ~~~k.format.tagMask == 0#16) &&
  decide ([t.fastCommand, t.shortRead, t.shortWrite].Nodup) &&
  decide ([t.fullRead, t.fullWrite, t.maskedWrite1, t.maskedWrite2, t.maskedWrite4].Nodup)

/-- A configuration the model admits: a tag table that meets R6 (D28), and a scalar of at least 32 bits
(91_not_in_source.md N3: "only that it is at least 32"; notes/assumptions/12.md, 14.md), a bound on byte counts of at least
2000 if there is one (D20), and a numbering of the kinds that tells them apart (notes/assumptions/25.md). -/
def Config.legal (c : Config) : Bool :=
  c.tags.legal && decide (32 ≤ c.scalarBits) && c.carries 2000 && c.kindCodes.legal

/-- The defaults of R5; the OPEN parameters are constants without a body. -/
def Config.standard : Config where
  scalarBits  := 32
  tags        := TagTable.standard
  headerOrder := .highFirst
  maskOrder   := .lowFirst
  readFill    := 0x00#8
  devIdReg    := 0x00#8
  devIdSub    := 0x00#8
  txBufMode   := Config.openTxBufMode
  txBufReg    := Config.openTxBufReg
  txBufSub    := Config.openTxBufSub
  busCfg      := Config.openBusCfg
  nMax        := none
  kindCodes   := KindCodes.standard

/-! ### Bytes of a value (R8) -/

/-- `bytes_le(v, k)` of R8: element i is `v[8i+7:8i]`. -/
def bytesLe (v : Nat) : Nat → List Byte
  | 0 => []
  | k + 1 => BitVec.ofNat 8 v :: bytesLe (v / 256) k

/-- `bytes_be(v, k)` of R8: the same bytes, most significant first. -/
def bytesBe (v k : Nat) : List Byte := (bytesLe v k).reverse

/-- The k bytes of a value in the order a parameter of R5 names. -/
def bytesOf : ByteOrder → Nat → Nat → List Byte
  | .lowFirst, v, k => bytesLe v k
  | .highFirst, v, k => bytesBe v k

/-- The scalar whose bytes these are, least significant first: the loop of R73, which takes the most significant byte
first, `acc = (acc << 8) + byte`. -/
def scalarOfLe (bytes : List Byte) : Nat := bytes.foldr (fun b acc => (acc <<< 8) + b.toNat) 0

/-- The scalar of a buffer in a byte order (R36; the rejected order of 90_conflicts.md C4 is the other one). -/
def scalarOf : ByteOrder → List Byte → Nat
  | .lowFirst, bytes => scalarOfLe bytes
  | .highFirst, bytes => scalarOfLe bytes.reverse

/-! ### The header encoder (R81 to R89) -/

/-- `r = reg & 0x1F`: "silent truncation, not an error" (R55). -/
def regField (reg : Byte) : BitVec 5 := reg.setWidth 5

/-- `s = sub & 0x7F` (R56). -/
def subField (sub : Byte) : BitVec 7 := sub.setWidth 7

/-- R52: `trunc_8(TAG + (r << 1))`, zero-extended to 16 bits. -/
def headerH8 (tag : Half) (r : BitVec 5) : Half :=
  ((tag + (r.setWidth 16 <<< 1)).setWidth 8).setWidth 16

/-- R53: `trunc_16(TAG + (r << 9) + (s << 2))`. -/
def headerH16 (tag : Half) (r : BitVec 5) (s : BitVec 7) : Half :=
  tag + (r.setWidth 16 <<< 9) + (s.setWidth 16 <<< 2)

/-- R81 for a known kind: the header value and `HLEN`. An 8-bit kind ignores `sub`. -/
def headerOf (t : TagTable) (k : Kind) (reg sub : Byte) : Half × Nat :=
  match k.format with
  | .h8 => (headerH8 (t.tag k) (regField reg), k.headerBytes)
  | .h16 => (headerH16 (t.tag k) (regField reg) (subField sub), k.headerBytes)

/-- The header as it goes on the wire (R58): `[HDR[7:0]]`, or the two bytes in the order HEADER_BYTE_ORDER names. -/
def wireHeader (order : ByteOrder) (header : Half × Nat) : List Byte :=
  bytesOf order header.1.toNat header.2

/-! ### The header decoder (R92), a construct for tests and laws: "the block itself never decodes a header" -/

/-- What DECODE_HEADER answers for a header it knows. -/
inductive DecodedHeader where
  | h8 (kind : Kind) (r : BitVec 5)
  | h16 (kind : Kind) (r : BitVec 5) (s : BitVec 7)
  deriving DecidableEq, Repr

/-- The kinds of a format (R51). -/
def Format.kinds : Format → List Kind
  | .h8 => [.fastCommand, .shortRead, .shortWrite]
  | .h16 => [.fullRead, .fullWrite, .maskedWrite1, .maskedWrite2, .maskedWrite4]

/-- The kind whose tag stands in the tag positions of a header, if there is one (R92). -/
def kindOfTag (t : TagTable) (f : Format) (h : Half) : Option Kind :=
  f.kinds.find? fun k => t.tag k == h &&& f.tagMask

/-- DECODE_HEADER of R92: `invalid` is `none`. A value that does not fit the format's width is none of its headers. -/
def decodeHeader (t : TagTable) : Format → Half → Option DecodedHeader
  | .h8, h =>
    if h.toNat < 256 then (kindOfTag t .h8 h).map fun k => .h8 k ((h >>> 1).setWidth 5) else none
  | .h16, h =>
    (kindOfTag t .h16 h).map fun k => .h16 k ((h >>> 9).setWidth 5) ((h >>> 2).setWidth 7)

/-- Why DECODE_WIRE answers `invalid` (R92). -/
inductive WireError where
  /-- No byte at all. -/
  | empty
  /-- The first byte announces a second one (bit 6), and there is none. -/
  | truncated
  /-- The tag positions hold no kind's tag (R64). -/
  | unknownTag
  deriving DecidableEq, Repr

/-- DECODE_WIRE of R92: the header at the front of a byte sequence, and the bytes after it. It relies on the default
tags and on the high byte being first (R66): bit 6 of the first byte says whether a second header byte follows.
DESIGN CHOICE, safe: an `invalid` answer carries neither the consumed count nor the rest of the bytes, also where
DECODE_HEADER gives it after one or two bytes; R92 does not say (notes/assumptions/29.md). -/
def decodeWire (t : TagTable) : List Byte → Except WireError (DecodedHeader × List Byte)
  | [] => .error .empty
  | b :: rest =>
    if b.getLsbD 6 then
      match rest with
      | [] => .error .truncated
      | c :: rest' =>
        match decodeHeader t .h16 (b ++ c) with
        | some d => .ok (d, rest')
        | none => .error .unknownTag
    else
      match decodeHeader t .h8 (b.setWidth 16) with
      | some d => .ok (d, rest)
      | none => .error .unknownTag

/-! ### The decoder of a presented command (R19, R67) -/

/-- Why a presented command is no operation. -/
inductive DecodeError where
  /-- R108: "A model whose operands are unbounded naturals refuses a mask ≥ 2^(8k) rather than truncating it". -/
  | maskTooWide
  deriving DecidableEq, Repr

/-- The masks of `MASKED_WRITE_k` as values of exactly 8k bits, if they are. -/
def decodeMasks (c : Command) (bits : Nat) (make : BitVec bits → BitVec bits → Instr) : Except DecodeError Instr :=
  if c.andMask < 2 ^ bits ∧ c.orMask < 2 ^ bits then
    .ok (make (BitVec.ofNat bits c.andMask) (BitVec.ofNat bits c.orMask))
  else .error .maskTooWide

/-- The operation a command presents: each name takes its own operands (R19, R67). -/
def decodeCommand (c : Command) : Except DecodeError Instr :=
  match c.op with
  | .fastCommand => .ok (.fastCommand c.reg)
  | .shortRead => .ok (.shortRead c.reg c.buf c.n)
  | .shortWrite => .ok (.shortWrite c.reg c.buf c.n)
  | .fullRead => .ok (.fullRead c.reg c.sub c.buf c.n)
  | .fullWrite => .ok (.fullWrite c.reg c.sub c.buf c.n)
  | .maskedWrite1 => decodeMasks c 8 (.maskedWrite1 c.reg c.sub)
  | .maskedWrite2 => decodeMasks c 16 (.maskedWrite2 c.reg c.sub)
  | .maskedWrite4 => decodeMasks c 32 (.maskedWrite4 c.reg c.sub)
  | .bitAt => .ok (.bitAt c.value c.position)
  | .bitsInRange => .ok (.bitsInRange c.value c.low c.high)
  | .bitsInBuffer => .ok (.bitsInBuffer c.buf c.low c.high)
  | .encodeHeader => .ok (.encodeHeader c.kindRaw c.reg c.sub)
  | .getDeviceId => .ok .getDeviceId
  | .writeTxBuffer => .ok (.writeTxBuffer c.buf c.n)
  | .writeTxbOffset => .ok .writeTxbOffset
  | .readTxbOffset => .ok .readTxbOffset

/-- The operation name of each kind (the operation column of R60). -/
def Kind.op : Kind → Op
  | .fastCommand => .fastCommand
  | .shortRead => .shortRead
  | .shortWrite => .shortWrite
  | .fullRead => .fullRead
  | .fullWrite => .fullWrite
  | .maskedWrite1 => .maskedWrite1
  | .maskedWrite2 => .maskedWrite2
  | .maskedWrite4 => .maskedWrite4

/-- The command a decoded header stands for: its kind's operation, its fields, every other operand zero. -/
def DecodedHeader.command : DecodedHeader → Command
  | .h8 k r => { op := k.op, reg := r.setWidth 8 }
  | .h16 k r s => { op := k.op, reg := r.setWidth 8, sub := s.setWidth 8 }

/-- The wire bytes of an opcode-table word: one byte, or the high byte and then the low byte (the table's column
`wire_byte_order`; R37). DESIGN CHOICE, safe: where the number of bits is no multiple of 8 it is rounded down to whole bytes,
and bits of the word above them are dropped; the table gives every word 8 or 16 bits (notes/assumptions/2.md). -/
def tableWordBytes (nbits w : Nat) : List Byte := bytesBe w (nbits / 8)

/-- The instruction the decoders read from an opcode-table row's bits, numbered as the table numbers them; the operands
the table gives no bits are zero. A row without an encoding has no word (R62). DESIGN CHOICE, safe: a word longer than the
header at its front is the word of no row, since a row's match is on a value of its format's width (R60), and is rejected
(notes/assumptions/2.md). -/
def decodeTableWord (nbits w : Nat) : Option Instr :=
  match decodeWire TagTable.standard (tableWordBytes nbits w) with
  | .ok (_, _ :: _) => none
  | .ok (d, []) =>
    match decodeCommand d.command with
    | .ok i => some i
    | .error _ => none
  | .error _ => none

/-! ### The encoders -/

/-- The command that presents an operation (R19). -/
def encodeCommand : Instr → Command
  | .fastCommand cmd => { op := .fastCommand, reg := cmd }
  | .shortRead reg out n => { op := .shortRead, reg := reg, buf := out, n := n }
  | .shortWrite reg buffer n => { op := .shortWrite, reg := reg, buf := buffer, n := n }
  | .fullRead reg sub out n => { op := .fullRead, reg := reg, sub := sub, buf := out, n := n }
  | .fullWrite reg sub buffer n => { op := .fullWrite, reg := reg, sub := sub, buf := buffer, n := n }
  | .maskedWrite1 reg sub a o => { op := .maskedWrite1, reg := reg, sub := sub, andMask := a.toNat, orMask := o.toNat }
  | .maskedWrite2 reg sub a o => { op := .maskedWrite2, reg := reg, sub := sub, andMask := a.toNat, orMask := o.toNat }
  | .maskedWrite4 reg sub a o => { op := .maskedWrite4, reg := reg, sub := sub, andMask := a.toNat, orMask := o.toNat }
  | .bitAt value position => { op := .bitAt, value := value, position := position }
  | .bitsInRange value low high => { op := .bitsInRange, value := value, low := low, high := high }
  | .bitsInBuffer buffer low high => { op := .bitsInBuffer, buf := buffer, low := low, high := high }
  | .encodeHeader kindRaw reg sub => { op := .encodeHeader, kindRaw := kindRaw, reg := reg, sub := sub }
  | .getDeviceId => { op := .getDeviceId }
  | .writeTxBuffer buffer n => { op := .writeTxBuffer, buf := buffer, n := n }
  | .writeTxbOffset => { op := .writeTxbOffset }
  | .readTxbOffset => { op := .readTxbOffset }

/-- The kind whose header an operation sends, and the register and sub-register bytes in it: the eight wire rows of the
table, and the two compositions through the primitive they run (R62, R121, R122). -/
def Instr.headerFields (c : Config) : Instr → Option (Kind × Byte × Byte)
  | .fastCommand cmd => some (.fastCommand, cmd, 0#8)
  | .shortRead reg _ _ => some (.shortRead, reg, 0#8)
  | .shortWrite reg _ _ => some (.shortWrite, reg, 0#8)
  | .fullRead reg sub _ _ => some (.fullRead, reg, sub)
  | .fullWrite reg sub _ _ => some (.fullWrite, reg, sub)
  | .maskedWrite1 reg sub _ _ => some (.maskedWrite1, reg, sub)
  | .maskedWrite2 reg sub _ _ => some (.maskedWrite2, reg, sub)
  | .maskedWrite4 reg sub _ _ => some (.maskedWrite4, reg, sub)
  | .getDeviceId => some (.fullRead, c.devIdReg, c.devIdSub)
  | .writeTxBuffer _ _ =>
    match c.txBufMode with
    | .short => some (.shortWrite, c.txBufReg, 0#8)
    | .full => some (.fullWrite, c.txBufReg, c.txBufSub)
  | .bitAt _ _ => none
  | .bitsInRange _ _ _ => none
  | .bitsInBuffer _ _ _ => none
  | .encodeHeader _ _ _ => none
  | .writeTxbOffset => none
  | .readTxbOffset => none

/-- The words of an operation: the header bytes it puts on the wire, where it has a wire encoding (R60, R62). -/
def encode (c : Config) (i : Instr) : Option (List Byte) :=
  (i.headerFields c).map fun f => wireHeader c.headerOrder (headerOf c.tags f.1 f.2.1 f.2.2)

/-! ### Names (R67, R68) -/

/-- The mnemonic of each operation, as R67 and the opcode table spell it. -/
def Op.mnemonic : Op → String
  | .fastCommand => "FAST_COMMAND"
  | .shortRead => "SHORT_READ"
  | .shortWrite => "SHORT_WRITE"
  | .fullRead => "FULL_READ"
  | .fullWrite => "FULL_WRITE"
  | .maskedWrite1 => "MASKED_WRITE_1"
  | .maskedWrite2 => "MASKED_WRITE_2"
  | .maskedWrite4 => "MASKED_WRITE_4"
  | .bitAt => "BIT_AT"
  | .bitsInRange => "BITS_IN_RANGE"
  | .bitsInBuffer => "BITS_IN_BUFFER"
  | .encodeHeader => "ENCODE_HEADER"
  | .getDeviceId => "GET_DEVICE_ID"
  | .writeTxBuffer => "WRITE_TX_BUFFER"
  | .writeTxbOffset => "WRITE_TXB_OFFSET"
  | .readTxbOffset => "READ_TXB_OFFSET"

/-- The source's other names for an operation: its function form (R67, D25), and the names of R68. -/
def Op.aliases : Op → List String
  | .fastCommand => ["fast_command"]
  | .shortRead => ["short_read", "short_addressed_read"]
  | .shortWrite => ["short_write", "short_addressed_write"]
  | .fullRead => ["full_read"]
  | .fullWrite => ["full_write"]
  | .maskedWrite1 => ["masked_write_1"]
  | .maskedWrite2 => ["masked_write_2"]
  | .maskedWrite4 => ["masked_write_4"]
  | .bitAt => ["bit_at"]
  | .bitsInRange => ["bits_in_range"]
  | .bitsInBuffer => ["bits_in_buffer"]
  | .encodeHeader => ["header"]
  | .getDeviceId => ["get_device_id"]
  | .writeTxBuffer => ["write_tx_buffer"]
  | .writeTxbOffset => ["write_txb_offset"]
  | .readTxbOffset => ["read_txb_offset"]

/-- The sixteen operations, in the order of the opcode table. -/
def Op.all : List Op :=
  [.fastCommand, .shortRead, .shortWrite, .fullRead, .fullWrite, .maskedWrite1, .maskedWrite2, .maskedWrite4,
   .bitAt, .bitsInRange, .bitsInBuffer, .encodeHeader, .getDeviceId, .writeTxBuffer, .writeTxbOffset, .readTxbOffset]

/-- The operation a name stands for, if any. -/
def Op.ofName (name : String) : Option Op :=
  Op.all.find? fun o => o.mnemonic == name || o.aliases.contains name

end Sys2Proof
end

