-- ==== Sys2Proof/Machine/State.lean ====
section
/-! DEFINITION. The state of the machine as plain data: what 10_state.md gives the block, the caller's side and the
environment's side of its interfaces, and the state after reset (R30). -/

namespace Sys2Proof.Machine

/-- `PHASE` (R16): "Idle → Selected → HeaderSent → PayloadTransferred → Idle". -/
inductive Phase where
  | idle
  | selected
  | headerSent
  | payloadTransferred
  deriving DecidableEq, Repr, Inhabited

/-- `SEL` (R17): low is selected, high is deselected. -/
inductive Level where
  | low
  | high
  deriving DecidableEq, Repr, Inhabited

/-- The three errors, and no other (60_exceptions.md R127). -/
inductive ErrorKind where
  /-- R128: "unknown mode passed to the encoder". -/
  | invalidTransactionKind
  /-- R129: "payload buffer smaller than requested byte count". -/
  | bufferTooShort
  /-- R130: "underlying transport reports failure". -/
  | busTransferFailure
  deriving DecidableEq, Repr, Inhabited

/-- The value of an `Ok` result (R11). -/
inductive Value where
  /-- `Ok` with no value (R100 to R107). -/
  | none
  /-- A codec result, an unsigned integer (R70). -/
  | scalar (v : Nat)
  /-- A header and its length in bytes (R81). -/
  | header (h : Half) (hlen : Nat)
  /-- The four fields of the device-ID register (R121). -/
  | deviceId (ridtag : BitVec 16) (model : BitVec 8) (ver rev : BitVec 4)
  deriving DecidableEq, Repr, Inhabited

/-- `RESULT` (R18): "a typed failure result". -/
inductive Result where
  | ok (v : Value)
  | err (e : ErrorKind)
  deriving DecidableEq, Repr, Inhabited

/-- The per-call latches of R15, but RESULT. -/
structure Latches where
  kind  : Kind
  reg   : Byte
  sub   : Byte
  hdr   : Half
  hlen  : Nat
  len   : Nat
  amask : MaskWord
  omask : MaskWord
  deriving DecidableEq, Repr

/-- Where a read's payload goes (R97, "dest"): nowhere, into a caller buffer, or into the 4-byte buffer local to
GET_DEVICE_ID (R121). -/
inductive Dest where
  | none
  | caller (out : Buf)
  | deviceId
  deriving DecidableEq, Repr, Inhabited

/-- The environment's answer to one `BusTransfer` (R10, R22). `ok` carries the received bytes; `fail` carries the bytes
received at the positions that reached the wire before the failure, so that its length says which prefix did. -/
inductive BusAnswer where
  | ok (received : List Byte)
  | fail (received : List Byte)
  deriving DecidableEq, Repr

/-- One bus call as the environment sees it (the call trace of R96). A transfer carries the bytes handed over, the
pairs `(out, in)` of the byte positions that were on the wire, and whether the answer was `ok`. -/
inductive Event where
  | busBegin (cfg : BusCfg)
  | selLow
  | transfer (out : List Byte) (wire : List (Byte × Byte)) (ok : Bool)
  | selHigh
  | busEnd
  deriving DecidableEq, Repr

/-- An event of the wire trace (R96). -/
inductive WireEvent where
  | selLow
  | byte (out received : Byte)
  | selHigh
  deriving DecidableEq, Repr

/-- The caller's memory: the bytes of its buffers by address, addresses strictly rising, no byte listed that an
unlisted address reads as. The address of (buffer, index) is `bufAddr` of Operands.lean. -/
abbrev Memory := List Host.Cell

/-- The state of the machine. -/
structure State where
  /-- The instance's parameters (R5): constants, which no step changes (R150). -/
  cfg      : Config
  /-- `PHASE` (R16). -/
  phase    : Phase
  /-- `SEL` (R17). -/
  sel      : Level
  /-- The per-call latches (R15); meaningless while PHASE is Idle. -/
  latches  : Latches
  /-- `RESULT` (R18); `none` while no result is pending. -/
  result   : Option Result
  /-- `payload_out` of the operation in progress (R97). -/
  payload  : List Byte
  /-- `dest` of the operation in progress (R97). -/
  dest     : Dest
  /-- The buffer local to GET_DEVICE_ID (R121); empty while there is none. -/
  localBuf : List Byte
  /-- The operations the caller will present, the next one first (R13, R19). -/
  commands : List Command
  /-- The environment's answers to come, the next one first (R13, R22). -/
  answers  : List BusAnswer
  /-- The caller's buffers (R33). -/
  mem      : Memory
  /-- The bus calls so far, the oldest first (R96): an observation, which no operation reads. -/
  trace    : List Event
  /-- The model's own counter: how many free values have been drawn (notes/assumptions/3.md). -/
  draws    : Nat
  deriving DecidableEq, Repr

/-- The block has no fault: an error is a typed result (R135), and "no other synchronous fault exists" (R131). -/
inductive Fault where
  deriving DecidableEq, Repr

/-- Why the machine gives a presented operation no meaning (R11: "a model must refuse it rather than compute a value").
All of them are safe: nothing can be proved of a run that stops there. -/
inductive Refusal where
  /-- Raised by exec for an operation that has no meaning yet. Safe. -/
  | notModelled (mnemonic : String)
  /-- Raised by every operation under a tag table that breaks R6, a scalar below 32 bits, a bound on counts
  below 2000 or a numbering that confuses two kinds (D28, N3, D20, log 25). Safe. -/
  | illegalConfiguration
  /-- Raised by every operation presented while PHASE is not Idle (R19, R97 step 0). Safe. -/
  | busy
  /-- Raised by BIT_AT when position ≥ W (R71). Safe. -/
  | bitPositionOutOfRange
  /-- Raised by BITS_IN_RANGE and BITS_IN_BUFFER unless low ≤ high < W (R72, R73). Safe. -/
  | bitRangeInvalid
  /-- Raised by the fetch when a mask does not fit its variant (R108). Safe. -/
  | maskTooWide
  /-- Raised by the fetch when a scalar operand is not below 2^W (R71, R72: `value: uW`). Safe. -/
  | scalarTooWide
  /-- Raised by the fetch when the command interface cannot carry a byte count (N_MAX of R5, D20). Safe. -/
  | countTooLarge
  /-- Raised by a reset while PHASE is not Idle, which a model does not admit (R147, U15). Safe. -/
  | resetWhileBusy
  /-- Raised by WRITE_TXB_OFFSET, which the source names and does not describe (R123). Safe. -/
  | writeTxbOffsetUndescribed
  /-- Raised by READ_TXB_OFFSET, which the source names and does not describe (R124). Safe. -/
  | readTxbOffsetUndescribed
  deriving DecidableEq, Repr

/-- The latches right after reset. R30 gives them no value: these are the model's (notes/assumptions/6.md). -/
def Latches.reset : Latches where
  kind  := .fastCommand
  reg   := 0x00#8
  sub   := 0x00#8
  hdr   := 0x0000#16
  hlen  := 1
  len   := 0
  amask := 0x00000000#32
  omask := 0x00000000#32

/-- The machine right after reset (R30, R147): PHASE Idle, SEL high, no result pending, the parameters at their defaults.
"After reset the block waits for the first operation": nothing is presented yet. -/
def State.reset : State where
  cfg      := Config.standard
  phase    := .idle
  sel      := .high
  latches  := Latches.reset
  result   := none
  payload  := []
  dest     := .none
  localBuf := []
  commands := []
  answers  := []
  mem      := []
  trace    := []
  draws    := 0

end Sys2Proof.Machine
end

