-- ==== Sys2Proof/Machine/Operands.lean ====
section
/-! DEFINITION. Operand forms: the caller's buffers and their bytes (20_memory.md R33), bit ranges (40_codec.md), and
the payloads of 30_encoding.md R59 and 42_protocol.md R99. -/

namespace Sys2Proof.Machine

/-! ### The caller's memory -/

/-- What an unlisted address reads as. The spec says nothing of a buffer's bytes before the caller writes them
(notes/assumptions/8.md). -/
def Memory.unlisted : Byte := 0x00#8

/-- One byte of the caller's memory. -/
def Memory.read (m : Memory) (a : Nat) : Byte :=
  match m with
  | [] => Memory.unlisted
  | c :: rest => if c.1 = a then c.2 else Memory.read rest a

/-- One byte in front of a list of cells, unless it is what an unlisted address reads as. -/
def Memory.cons (a : Nat) (v : Byte) (m : Memory) : Memory :=
  if v = Memory.unlisted then m else (a, v) :: m

/-- The memory with one byte replaced, in canonical form. -/
def Memory.write (m : Memory) (a : Nat) (v : Byte) : Memory :=
  match m with
  | [] => Memory.cons a v []
  | c :: rest =>
    if a < c.1 then Memory.cons a v (c :: rest)
    else if c.1 = a then Memory.cons a v rest
    else c :: Memory.write rest a v

/-- Every address of the list lies above `a`, and the list is canonical. -/
def Memory.wfAbove (a : Nat) (m : Memory) : Bool :=
  match m with
  | [] => true
  | c :: rest => decide (a < c.1) && decide (c.2 ≠ Memory.unlisted) && Memory.wfAbove c.1 rest

/-- The canonical form: addresses strictly rising, no byte listed that an unlisted address reads as. -/
def Memory.wf (m : Memory) : Bool :=
  match m with
  | [] => true
  | c :: rest => decide (c.2 ≠ Memory.unlisted) && Memory.wfAbove c.1 rest

/-- The address of byte `i` of a buffer: one address for each pair (buffer, index) of R9, so that two buffers share no
byte (notes/assumptions/7.md). -/
def bufAddr (b : Buf) (i : Nat) : Nat := Nat.pair b.id i

/-- `MemRead((buf, i), 1)` of R9. -/
def readBuf (m : Memory) (b : Buf) (i : Nat) : Byte := m.read (bufAddr b i)

/-- `MemWrite((buf, i), 1, v)` of R9. -/
def writeBuf (m : Memory) (b : Buf) (i : Nat) (v : Byte) : Memory := m.write (bufAddr b i) v

/-- The bytes `buf[from]` to `buf[from + n - 1]`. -/
def readBytesFrom (m : Memory) (b : Buf) (start : Nat) : Nat → List Byte
  | 0 => []
  | n + 1 => readBuf m b start :: readBytesFrom m b (start + 1) n

/-- `buf[0..n)` (R8). -/
def readBytes (m : Memory) (b : Buf) (n : Nat) : List Byte := readBytesFrom m b 0 n

/-- The bytes stored one after the other from `buf[start]` on. -/
def writeBytesFrom (m : Memory) (b : Buf) (start : Nat) (bytes : List Byte) : Memory :=
  match bytes with
  | [] => m
  | v :: rest => writeBytesFrom (writeBuf m b start v) b (start + 1) rest

/-- Step 7 of R97: `MemWrite((dest, i), 1, in[i])` for every i. -/
def writeBytes (m : Memory) (b : Buf) (bytes : List Byte) : Memory := writeBytesFrom m b 0 bytes

/-! ### Bit ranges (R71 to R73, R75) -/

/-- `value[position]` (R71). -/
def bitOf (value position : Nat) : Nat := (value >>> position) &&& 1

/-- `value[high:low]`, right-justified (R72): the mask is computed over the naturals. -/
def bitsOf (value low high : Nat) : Nat := (value >>> low) &&& (2 ^ (high - low + 1) - 1)

/-- The precondition `low ≤ high < W` of R72 and R73. -/
def rangeValid (w low high : Nat) : Bool := decide (low ≤ high) && decide (high < w)

/-- `m + 1 = floor(high / 8) + 1`, the bytes BITS_IN_BUFFER reads (R73). -/
def bytesNeeded (high : Nat) : Nat := high / 8 + 1

/-- The field of a little-endian byte sequence (R73): the bytes up to `floor(high / 8)` as one scalar, then R72. -/
def fieldOf (bytes : List Byte) (low high : Nat) : Nat :=
  bitsOf (scalarOf bufferByteOrder (bytes.take (bytesNeeded high))) low high

/-! ### Payloads (R59, R99) -/

/-- Both masks in full, `and_mask` before `or_mask`, the bytes of each in the order MASK_BYTE_ORDER names (R38, R108). -/
def maskPayload (order : ByteOrder) (k : Nat) (a o : Nat) : List Byte := bytesOf order a k ++ bytesOf order o k

/-- What an operation asks EXCHANGE for (R97): its fixed kind, the raw register and sub-register bytes, the masks of a
masked write, the caller buffer involved, the bytes to send, and where received payload bytes go. -/
structure Request where
  kind    : Kind
  reg     : Byte
  sub     : Byte
  masks   : Option (MaskWord × MaskWord)
  buffer  : Option Buf
  payload : List Byte
  dest    : Dest
  deriving DecidableEq, Repr

/-- R100: the header only. -/
def commandRequest (cmd : Byte) : Request :=
  { kind := .fastCommand, reg := cmd, sub := 0#8, masks := none, buffer := none, payload := [], dest := .none }

/-- R101, R103: `n` fill bytes go out, the received bytes go to the caller's buffer. -/
def readRequest (c : Config) (k : Kind) (reg sub : Byte) (out : Buf) (n : Nat) : Request :=
  { kind := k, reg := reg, sub := sub, masks := none, buffer := some out,
    payload := List.replicate n c.readFill, dest := .caller out }

/-- R102, R104: `buf[0]` to `buf[n-1]` go out. -/
def writeRequest (m : Memory) (k : Kind) (reg sub : Byte) (buffer : Buf) (n : Nat) : Request :=
  { kind := k, reg := reg, sub := sub, masks := none, buffer := some buffer,
    payload := readBytes m buffer n, dest := .none }

/-- R105 to R108: both masks, at the width of the variant. -/
def maskRequest (c : Config) (k : Kind) (reg sub : Byte) (a o : MaskWord) : Request :=
  { kind := k, reg := reg, sub := sub, masks := some (a, o), buffer := none,
    payload := maskPayload c.maskOrder k.maskBytes a.toNat o.toNat, dest := .none }

/-- R121: a FULL_READ of the device-ID register into a 4-byte buffer local to the operation. -/
def deviceIdRequest (c : Config) : Request :=
  { kind := .fullRead, reg := c.devIdReg, sub := c.devIdSub, masks := none, buffer := none,
    payload := List.replicate 4 c.readFill, dest := .deviceId }

/-- The count `WRITE_TX_BUFFER` sends: "values above 1024 are silently truncated to 1024" (R34, R122). -/
def txCount (n : Nat) : Nat := min n txBufMax

/-- R122: the short or the full write of TXBUF_MODE. -/
def txBufRequest (c : Config) (m : Memory) (buffer : Buf) (n : Nat) : Request :=
  match c.txBufMode with
  | .short => writeRequest m .shortWrite c.txBufReg 0#8 buffer (txCount n)
  | .full => writeRequest m .fullWrite c.txBufReg c.txBufSub buffer (txCount n)

/-- Step 2 of R97: a caller buffer is involved and has fewer bytes than the payload (R109). -/
def Request.tooShort (r : Request) : Bool :=
  match r.buffer with
  | some b => decide (b.len < r.payload.length)
  | none => false

end Sys2Proof.Machine
end

