-- ==== Sys2Proof/Machine/Flags.lean ====
section
/-! DEFINITION. The block "has no condition codes and no sticky status bits" (10_state.md R18): its only status is RESULT,
and this file holds how it is computed and set. -/

namespace Sys2Proof.Machine

/-- RESULT is set by the operation that returns it (R18); nothing else changes. -/
def deliver (r : Result) (s : State) : State := { s with result := some r }

/-- The next operation starts with no memory of an earlier result (R18). -/
def clearResult (s : State) : State := { s with result := none }

/-- The four fields of the device-ID register (R121): "ridtag = bits 16–31, model = bits 8–15, ver = bits 4–7, rev =
bits 0–3" of its four bytes. -/
def deviceIdOf (bytes : List Byte) : Value :=
  .deviceId (BitVec.ofNat 16 (fieldOf bytes 16 31)) (BitVec.ofNat 8 (fieldOf bytes 8 15))
    (BitVec.ofNat 4 (fieldOf bytes 4 7)) (BitVec.ofNat 4 (fieldOf bytes 0 3))

/-- The value an exchange that went well returns: the device-ID tuple for GET_DEVICE_ID (R121), no value otherwise. -/
def exchangeValue (s : State) : Value :=
  match s.dest with
  | .none => .none
  | .caller _ => .none
  | .deviceId => deviceIdOf s.localBuf

end Sys2Proof.Machine
end

