-- ==== Sys2Proof/Machine/Ops.lean ====
section
/-! DEFINITION. The operations every meaning is made of: the bus primitives (00_scope.md R10), the steps of EXCHANGE
(42_protocol.md R97), ending with an error (60_exceptions.md R135, R136), and taking the next presented operation. -/

namespace Sys2Proof.Machine

/-! ### When an operation is accepted (R19, R134) -/

/-- Why no operation can be accepted in this state, if so: refusals are checked first (R134). -/
def refusalNow (s : State) : Option Refusal :=
  if s.cfg.legal = false then some .illegalConfiguration
  else if s.phase ≠ .idle then some .busy
  else none

/-- An operation has its effect only when it is accepted. -/
def whenAccepted (s : State) (effect : Host.Outcome State Fault Refusal) : Host.Outcome State Fault Refusal :=
  match refusalNow s with
  | some r => .refused r
  | none => effect

/-! ### Free values (R11, R15, R111) -/

/-- What the latches hold when their value is meaningless (R15, U20). -/
def freeLatches (draw : Nat) : Latches where
  kind  := Config.freeKind draw
  reg   := Config.freeByte draw 0
  sub   := Config.freeByte draw 1
  hdr   := Config.freeHalf draw
  hlen  := Config.freeNat draw 0
  len   := Config.freeNat draw 1
  amask := Config.freeMask draw 0
  omask := Config.freeMask draw 1

/-- `n` free bytes of one draw, from a position on. -/
def freeBytes (draw position : Nat) : Nat → List Byte
  | 0 => []
  | n + 1 => Config.freeByte draw position :: freeBytes draw (position + 1) n

/-- The received bytes of a transfer, one for each byte sent (R22: `len(in) = len(out)`): those of the answer, and a free
byte wherever the answer has none (notes/assumptions/9.md). -/
def receivedBytes (draw position : Nat) : List Byte → List Byte → List Byte
  | [], _ => []
  | _ :: out, b :: answer => b :: receivedBytes draw (position + 1) out answer
  | _ :: out, [] => Config.freeByte draw position :: receivedBytes draw (position + 1) out []

/-! ### Bus primitives (R10, R21 to R23) -/

/-- `BusBegin(BUSCFG)` (R23). -/
def busBegin (s : State) : State := { s with trace := s.trace ++ [.busBegin s.cfg.busCfg] }

/-- `BusSelect(true)`: drive the select line low (R17, R21). -/
def busSelect (s : State) : State := { s with sel := .low, trace := s.trace ++ [.selLow] }

/-- `BusSelect(false)`: drive the select line high (R17, R21). -/
def busDeselect (s : State) : State := { s with sel := .high, trace := s.trace ++ [.selHigh] }

/-- `BusEnd()` (R23). -/
def busEnd (s : State) : State := { s with trace := s.trace ++ [.busEnd] }

/-- A `BusTransfer(out)` answered `ok`: the bytes on the wire are `out` against `received`. -/
def transferOk (out received : List Byte) (rest : List BusAnswer) (s : State) : State :=
  { s with answers := rest, trace := s.trace ++ [.transfer out (out.zip received) true], draws := s.draws + 1 }

/-- A `BusTransfer(out)` answered `fail`: a prefix of `out` reached the wire (R22). -/
def transferFailed (out received : List Byte) (rest : List BusAnswer) (s : State) : State :=
  { s with answers := rest, trace := s.trace ++ [.transfer out (out.zip received) false] }

/-! ### Ending an operation -/

/-- Step 8 of R97: `BusSelect(false); BusEnd(); PHASE <- Idle`. -/
def release (s : State) : State := { busEnd (busDeselect s) with phase := .idle }

/-- Once PHASE is Idle again the latches are meaningless (R15), and nothing of the call is left (R14). -/
def endCall (s : State) : State :=
  { s with latches := freeLatches s.draws, draws := s.draws + 1, payload := [], dest := .none, localBuf := [] }

/-- Ending with `Err(e)` (R11, R135): if the select line is low it is driven high first (R136), then the error is
RESULT. There is no handler, no saved state, no mode (R135) and no return from it: the next operation is accepted as
after `Ok` (R138), and nothing is retried (R139). -/
def raiseError (e : ErrorKind) (s : State) : State :=
  deliver (.err e) (if s.sel = .low then release s else s)

/-- What a failed read leaves in its destination: any value in `out_buffer[0..n)`, `n` the payload's length (R111). -/
def spoilDest (s : State) : State :=
  match s.dest with
  | .none => s
  | .deviceId => s
  | .caller out =>
    { s with mem := writeBytes s.mem out (freeBytes s.draws 0 s.payload.length), draws := s.draws + 1 }

/-- The failure path of R110: "abort the in-progress operation and still perform deselection before propagating the
failure". -/
def abortCall (s : State) : State := endCall (raiseError .busTransferFailure (spoilDest s))

/-! ### Reset (R30, R147) -/

/-- The block right after a reset: PHASE Idle, SEL high, no result pending, every latch any value (U20). Parameters are "not
reset" and the caller's buffers are "untouched by reset" (R30). DESIGN CHOICE, unsafe: the caller's operations, the
environment's answers and the bus calls made so far stay as they are (notes/assumptions/28.md). -/
def afterReset (s : State) : State := endCall { clearResult s with phase := .idle, sel := .high }

/-- A reset from outside the block: "a model does not admit a reset while `PHASE ≠ Idle`" (R147). No step causes one. -/
def resetBlock (s : State) : Host.Outcome State Fault Refusal :=
  if s.phase = .idle then .next (afterReset s) else .refused .resetWhileBusy

/-! ### The steps of EXCHANGE (R97) -/

/-- Step 1, after the masks of a masked write (R105 to R107): the operands go into the latches. -/
def latchOperands (r : Request) (s : State) : State :=
  { s with
    latches :=
      { s.latches with
        kind := r.kind, reg := r.reg, sub := r.sub, len := r.payload.length,
        amask := (r.masks.map Prod.fst).getD s.latches.amask,
        omask := (r.masks.map Prod.snd).getD s.latches.omask },
    payload := r.payload, dest := r.dest, localBuf := [] }

/-- Step 3: `(HDR, HLEN) <- ENCODE_HEADER(kind, REG, SUB)`. -/
def latchHeader (s : State) : State :=
  let h := headerOf s.cfg.tags s.latches.kind s.latches.reg s.latches.sub
  { s with latches := { s.latches with hdr := h.1, hlen := h.2 } }

/-- Step 4: `BusBegin(BUSCFG); BusSelect(true); PHASE <- Selected`. -/
def selectDevice (s : State) : State := { busSelect (busBegin s) with phase := .selected }

/-- The header bytes step 5 transfers (R98). -/
def headerOut (s : State) : List Byte := wireHeader s.cfg.headerOrder (s.latches.hdr, s.latches.hlen)

/-- The end of step 5: `PHASE <- HeaderSent`. -/
def headerDone (s : State) : State := { s with phase := .headerSent }

/-- Step 5, the header transfer. The received bytes are discarded (R98). While the environment has not answered, the
operation waits (R119). -/
def headerStep (s : State) : State :=
  match s.answers with
  | [] => s
  | .ok answer :: rest =>
    headerDone (transferOk (headerOut s) (receivedBytes s.draws 0 (headerOut s) answer) rest s)
  | .fail answer :: rest => abortCall (transferFailed (headerOut s) answer rest s)

/-- Step 7: the received payload of a read goes to its destination; that of a write is discarded (R99). -/
def storeReceived (received : List Byte) (s : State) : State :=
  match s.dest with
  | .none => s
  | .caller out => { s with mem := writeBytes s.mem out received }
  | .deviceId => { s with localBuf := received }

/-- The end of steps 6 and 7: `PHASE <- PayloadTransferred`, `RESULT <- Ok`. -/
def payloadDone (s : State) : State := { deliver (.ok .none) s with phase := .payloadTransferred }

/-- Steps 6 and 7, the payload transfer: none for an empty payload. While the environment has not answered, the
operation waits (R119). -/
def payloadStep (s : State) : State :=
  if s.latches.len = 0 then payloadDone s
  else
    match s.answers with
    | [] => s
    | .ok answer :: rest =>
      let received := receivedBytes s.draws 0 s.payload answer
      payloadDone (storeReceived received (transferOk s.payload received rest s))
    | .fail answer :: rest => abortCall (transferFailed s.payload answer rest s)

/-- Steps 8 and 9: deselect, then return the result. The codec calls of GET_DEVICE_ID come after the bracket has
closed (R125). -/
def closeStep (s : State) : State := endCall (deliver (.ok (exchangeValue s)) (release s))

/-- One transition of the table of R112, or none while PHASE is Idle or the environment has not answered. -/
def advance (s : State) : State :=
  match s.phase with
  | .idle => s
  | .selected => headerStep s
  | .headerSent => payloadStep s
  | .payloadTransferred => closeStep s

/-- Steps 5 to 9, as far as the environment's answers reach: three transitions at most lead back to Idle (R112). -/
def runExchange (s : State) : State := advance (advance (advance s))

/-- Steps 1, 3 and 4. -/
def openExchange (r : Request) (s : State) : State := selectDevice (latchHeader (latchOperands r (clearResult s)))

/-- Steps 1 to 9 of an accepted operation. A buffer too short for the payload is an error before the bus is touched
(R109). -/
def beginExchange (r : Request) (s : State) : State :=
  if r.tooShort then endCall (raiseError .bufferTooShort (latchOperands r (clearResult s)))
  else runExchange (openExchange r s)

/-- EXCHANGE of R97. -/
def exchange (r : Request) (s : State) : Host.Outcome State Fault Refusal :=
  whenAccepted s (.next (beginExchange r s))

/-! ### The wire trace (R96) -/

/-- The wire events of one bus call: `BusBegin` and `BusEnd` are calls, not wire events. -/
def Event.onWire : Event → List WireEvent
  | .busBegin _ => []
  | .selLow => [.selLow]
  | .transfer _ wire _ => wire.map fun p => .byte p.1 p.2
  | .selHigh => [.selHigh]
  | .busEnd => []

/-- The wire trace of a call trace. -/
def wireTrace (calls : List Event) : List WireEvent := calls.flatMap Event.onWire

/-! ### The next presented operation -/

/-- What the machine does next: go on with an operation that waits, wait for the caller, refuse what is presented, or
run an operation. -/
inductive Fetched where
  | resume
  | idle
  | refused (r : Refusal)
  | run (i : Instr) (s : State)

/-- The refusal a command that is no operation meets. -/
def refusalOfDecode : DecodeError → Refusal
  | .maskTooWide => .maskTooWide

/-- The refusal an operation meets when an operand does not fit its type: a scalar of the codec (R71, R72), or a byte count
(N_MAX of R5). The operations without such an operand are always well-formed. -/
def refusalOfOperands : Instr → Refusal
  | .bitAt _ _ => .scalarTooWide
  | .bitsInRange _ _ _ => .scalarTooWide
  | .shortRead _ _ _ => .countTooLarge
  | .shortWrite _ _ _ => .countTooLarge
  | .fullRead _ _ _ _ => .countTooLarge
  | .fullWrite _ _ _ _ => .countTooLarge
  | .writeTxBuffer _ _ => .countTooLarge
  | .fastCommand _ => .countTooLarge
  | .maskedWrite1 _ _ _ _ => .countTooLarge
  | .maskedWrite2 _ _ _ _ => .countTooLarge
  | .maskedWrite4 _ _ _ _ => .countTooLarge
  | .bitsInBuffer _ _ _ => .countTooLarge
  | .encodeHeader _ _ _ => .countTooLarge
  | .getDeviceId => .countTooLarge
  | .writeTxbOffset => .countTooLarge
  | .readTxbOffset => .countTooLarge

/-- The caller presents its operations one at a time, each when the one before has returned (R13, R48): while PHASE is
not Idle none is presented. DESIGN CHOICE, safe: an operand that does not fit its type (a mask, a scalar, a byte count) is
refused here, before the operation itself looks at the configuration, at PHASE and at its own precondition; R134 gives no
order among refusals (notes/assumptions/14.md). -/
def fetch (s : State) : Fetched :=
  if s.phase ≠ .idle then .resume
  else
    match s.commands with
    | [] => .idle
    | c :: rest =>
      match decodeCommand c with
      | .error e => .refused (refusalOfDecode e)
      | .ok i =>
        if i.wellFormed s.cfg then .run i { s with commands := rest } else .refused (refusalOfOperands i)

end Sys2Proof.Machine
end

