-- ==== Sys2Proof/Machine/Codec.lean ====
section
/-! DEFINITION. The Bit/Buffer Codec (40_codec.md). Its operations "read only their operands, write no state element"
(R70) but RESULT, which every operation returns (R18, R20). -/

namespace Sys2Proof.Machine

/-- BIT_AT (R71). -/
def execBitAt (value position : Nat) (s : State) : Host.Outcome State Fault Refusal :=
  whenAccepted s <|
    if position ≥ s.cfg.scalarBits then .refused .bitPositionOutOfRange
    else .next (deliver (.ok (.scalar (bitOf value position))) s)

/-- BITS_IN_RANGE (R72). -/
def execBitsInRange (value low high : Nat) (s : State) : Host.Outcome State Fault Refusal :=
  whenAccepted s <|
    if rangeValid s.cfg.scalarBits low high then .next (deliver (.ok (.scalar (bitsOf value low high))) s)
    else .refused .bitRangeInvalid

/-- BITS_IN_BUFFER (R73): the range check comes first, then the length check, then the bytes up to `floor(high / 8)`. -/
def execBitsInBuffer (buffer : Buf) (low high : Nat) (s : State) : Host.Outcome State Fault Refusal :=
  whenAccepted s <|
    if rangeValid s.cfg.scalarBits low high then
      if buffer.len < bytesNeeded high then .next (raiseError .bufferTooShort s)
      else .next (deliver (.ok (.scalar (fieldOf (readBytes s.mem buffer (bytesNeeded high)) low high))) s)
    else .refused .bitRangeInvalid

end Sys2Proof.Machine
end

