-- ==== Sys2Proof/Machine/Compositions.lean ====
section
/-! DEFINITION. The convenience compositions (43_compositions.md): "built purely from the primitives above plus the Codec". -/

namespace Sys2Proof.Machine

/-- GET_DEVICE_ID (R121): one full read of the device-ID register, then its four fields; an error of the read is passed
on unchanged (R120). -/
def execGetDeviceId (s : State) : Host.Outcome State Fault Refusal :=
  exchange (deviceIdRequest s.cfg) s

/-- WRITE_TX_BUFFER (R122): one write of at most 1024 bytes, by the kind and at the address of the OPEN parameters. -/
def execWriteTxBuffer (buffer : Buf) (n : Nat) (s : State) : Host.Outcome State Fault Refusal :=
  exchange (txBufRequest s.cfg s.mem buffer n) s

/-- WRITE_TXB_OFFSET (R123): "This spec leaves it out of the admitted operations; a model refuses it by name." -/
def execWriteTxbOffset (_s : State) : Host.Outcome State Fault Refusal :=
  .refused .writeTxbOffsetUndescribed

/-- READ_TXB_OFFSET (R124): "named, otherwise undescribed, left out, refused by name". -/
def execReadTxbOffset (_s : State) : Host.Outcome State Fault Refusal :=
  .refused .readTxbOffsetUndescribed

end Sys2Proof.Machine
end

