-- ==== Sys2Proof/Machine/Encoder.lean ====
section
/-! DEFINITION. The Transaction Encoder as an operation of its own (41_encoder.md). -/

namespace Sys2Proof.Machine

/-- ENCODE_HEADER (R81): the header and its length, or InvalidTransactionKind for an unknown kind (R90). As a
stand-alone operation it writes nothing but RESULT. -/
def execEncodeHeader (kindRaw : Nat) (reg sub : Byte) (s : State) : Host.Outcome State Fault Refusal :=
  whenAccepted s <|
    match s.cfg.kindCodes.kind kindRaw with
    | none => .next (raiseError .invalidTransactionKind s)
    | some k =>
      .next (deliver (.ok (.header (headerOf s.cfg.tags k reg sub).1 (headerOf s.cfg.tags k reg sub).2)) s)

end Sys2Proof.Machine
end

