-- ==== Sys2Proof/Machine/Protocol.lean ====
section
/-! DEFINITION. The Register Access Protocol (42_protocol.md R100 to R107): each operation is one exchange of its fixed
kind. -/

namespace Sys2Proof.Machine

/-- FAST_COMMAND (R100). -/
def execFastCommand (cmd : Byte) (s : State) : Host.Outcome State Fault Refusal :=
  exchange (commandRequest cmd) s

/-- SHORT_READ (R101). -/
def execShortRead (reg : Byte) (out : Buf) (n : Nat) (s : State) : Host.Outcome State Fault Refusal :=
  exchange (readRequest s.cfg .shortRead reg 0#8 out n) s

/-- SHORT_WRITE (R102). -/
def execShortWrite (reg : Byte) (buffer : Buf) (n : Nat) (s : State) : Host.Outcome State Fault Refusal :=
  exchange (writeRequest s.mem .shortWrite reg 0#8 buffer n) s

/-- FULL_READ (R103). -/
def execFullRead (reg sub : Byte) (out : Buf) (n : Nat) (s : State) : Host.Outcome State Fault Refusal :=
  exchange (readRequest s.cfg .fullRead reg sub out n) s

/-- FULL_WRITE (R104). -/
def execFullWrite (reg sub : Byte) (buffer : Buf) (n : Nat) (s : State) : Host.Outcome State Fault Refusal :=
  exchange (writeRequest s.mem .fullWrite reg sub buffer n) s

/-- MASKED_WRITE_1 (R105). -/
def execMaskedWrite1 (reg sub : Byte) (andMask orMask : BitVec 8) (s : State) : Host.Outcome State Fault Refusal :=
  exchange (maskRequest s.cfg .maskedWrite1 reg sub (andMask.setWidth 32) (orMask.setWidth 32)) s

/-- MASKED_WRITE_2 (R106). -/
def execMaskedWrite2 (reg sub : Byte) (andMask orMask : BitVec 16) (s : State) : Host.Outcome State Fault Refusal :=
  exchange (maskRequest s.cfg .maskedWrite2 reg sub (andMask.setWidth 32) (orMask.setWidth 32)) s

/-- MASKED_WRITE_4 (R107). -/
def execMaskedWrite4 (reg sub : Byte) (andMask orMask : BitVec 32) (s : State) : Host.Outcome State Fault Refusal :=
  exchange (maskRequest s.cfg .maskedWrite4 reg sub andMask orMask) s

end Sys2Proof.Machine
end

