-- ==== Sys2Proof/Machine/Dispatch.lean ====
section
/-! DEFINITION. One arm for each operation of spec/opcode_table.json. -/

namespace Sys2Proof.Machine

def exec (i : Instr) (s : State) : Host.Outcome State Fault Refusal :=
  match i with
  | .fastCommand cmd => Sys2Proof.Machine.execFastCommand cmd s
  | .shortRead reg out n => Sys2Proof.Machine.execShortRead reg out n s
  | .shortWrite reg buffer n => Sys2Proof.Machine.execShortWrite reg buffer n s
  | .fullRead reg sub out n => Sys2Proof.Machine.execFullRead reg sub out n s
  | .fullWrite reg sub buffer n => Sys2Proof.Machine.execFullWrite reg sub buffer n s
  | .maskedWrite1 reg sub andMask orMask => Sys2Proof.Machine.execMaskedWrite1 reg sub andMask orMask s
  | .maskedWrite2 reg sub andMask orMask => Sys2Proof.Machine.execMaskedWrite2 reg sub andMask orMask s
  | .maskedWrite4 reg sub andMask orMask => Sys2Proof.Machine.execMaskedWrite4 reg sub andMask orMask s
  | .bitAt value position => Sys2Proof.Machine.execBitAt value position s
  | .bitsInRange value low high => Sys2Proof.Machine.execBitsInRange value low high s
  | .bitsInBuffer buffer low high => Sys2Proof.Machine.execBitsInBuffer buffer low high s
  | .encodeHeader kindRaw reg sub => Sys2Proof.Machine.execEncodeHeader kindRaw reg sub s
  | .getDeviceId => Sys2Proof.Machine.execGetDeviceId s
  | .writeTxBuffer buffer n => Sys2Proof.Machine.execWriteTxBuffer buffer n s
  | .writeTxbOffset => Sys2Proof.Machine.execWriteTxbOffset s
  | .readTxbOffset => Sys2Proof.Machine.execReadTxbOffset s

end Sys2Proof.Machine
end

