-- ==== Sys2Proof/Machine/Step.lean ====
section
/-! DEFINITION. One step of the machine: one operation, or the rest of one that waited for the environment. -/

namespace Sys2Proof.Machine

/-- One step. While nothing is presented the block waits (R147); an operation in progress goes on with the answers that
have come since (R119). -/
def step (s : State) : Host.Outcome State Fault Refusal :=
  match fetch s with
  | .resume => .next (runExchange s)
  | .idle => .next s
  | .refused r => .refused r
  | .run i s' => exec i s'

/-- The state in which the caller presents the operation of an opcode-table word next: its command stands first, and the
block is ready to accept it. A word the decoder rejects presents nothing (notes/assumptions/2.md). -/
def State.withFetchWord (s : State) (nbits w : Nat) : State :=
  match decodeTableWord nbits w with
  | some i => { s with phase := .idle, sel := .high, commands := encodeCommand i :: s.commands }
  | none => { s with commands := [] }

end Sys2Proof.Machine
end

