-- ==== Sys2Proof/Machine/Environment.lean ====
section
/-! DEFINITION. The environment's side of the bus (10_state.md R13), outside the block: no meaning of an operation uses
this file. It holds the one fact the spec states about the chip (20_memory.md R44) and the test environments of
95_test_vectors.md section 1 that answer a transfer by themselves; `ScriptBus` is the list `answers` of State. -/

namespace Sys2Proof.Machine

/-! ### Answering a transfer that waits -/

/-- The bytes of the `BusTransfer` the block waits on, if it waits on one. -/
def outgoing (s : State) : Option (List Byte) :=
  match s.phase with
  | .idle => none
  | .selected => some (headerOut s)
  | .headerSent => if s.latches.len = 0 then none else some s.payload
  | .payloadTransferred => none

/-- The environment answers one more transfer. -/
def supply (answer : BusAnswer) (s : State) : State := { s with answers := s.answers ++ [answer] }

/-! ### The chip's masked write (R44) -/

/-- "destination register value becomes `(old & and_mask) | or_mask`", at the width of the variant. -/
def chipMaskedValue {w : Nat} (old andMask orMask : BitVec w) : BitVec w := (old &&& andMask) ||| orMask

/-- The same on the bytes of the destination and of the two masks, position by position. -/
def chipMaskedBytes : List Byte → List Byte → List Byte → List Byte
  | v :: old, a :: andMask, o :: orMask => chipMaskedValue v a o :: chipMaskedBytes old andMask orMask
  | _, _, _ => []

/-- The register fields of a decoded header. An 8-bit header has no sub-register (R32, R113). DESIGN CHOICE, unsafe: it
stands here as 0, so that RegChip starts a short read or write at offset 0 of the register; the spec gives no offset
(notes/assumptions/26.md). -/
def decodedAddress : DecodedHeader → Kind × Nat × Nat
  | .h8 k r => (k, r.toNat, 0)
  | .h16 k r s => (k, r.toNat, s.toNat)

/-- A header as a test environment reads it (R92, default tags). -/
def readHeader (out : List Byte) : Option (Kind × Nat × Nat) :=
  match decodeWire TagTable.standard out with
  | .ok (d, _) => some (decodedAddress d)
  | .error _ => none

/-- What a kind does with the payload transfer. -/
inductive Direction where
  | none
  | read
  | write
  | masked
  deriving DecidableEq, Repr

/-- The direction of each kind's payload (R59). -/
def payloadDirection : Kind → Direction
  | .fastCommand => .none
  | .shortRead => .read
  | .shortWrite => .write
  | .fullRead => .read
  | .fullWrite => .write
  | .maskedWrite1 => .masked
  | .maskedWrite2 => .masked
  | .maskedWrite4 => .masked

/-! ### EchoBus: "a fake bus that echoes back exactly the bytes last written" (R117) -/

/-- EchoBus: the bytes last written, and the kind of the open bracket. -/
structure EchoBus where
  last : List Byte
  kind : Option Kind
  deriving DecidableEq, Repr

/-- EchoBus decodes the first transfer of a bracket and answers zeros. -/
def echoHeader (e : EchoBus) (out : List Byte) : EchoBus × BusAnswer :=
  ({ e with kind := (readHeader out).map Prod.fst }, .ok (List.replicate out.length 0x00#8))

/-- EchoBus keeps a written payload, and answers a read of length n with the first n bytes of it, padded with zeros. -/
def echoPayload (e : EchoBus) (out : List Byte) : EchoBus × BusAnswer :=
  match e.kind.map payloadDirection with
  | some .write => ({ e with last := out }, .ok (List.replicate out.length 0x00#8))
  | some .read => (e, .ok ((e.last ++ List.replicate out.length 0x00#8).take out.length))
  | some .masked => (e, .ok (List.replicate out.length 0x00#8))
  | some .none => (e, .ok (List.replicate out.length 0x00#8))
  | none => (e, .ok (List.replicate out.length 0x00#8))

/-- EchoBus answers the transfer the block waits on, and the block goes on. -/
def echoRound (e : EchoBus) (s : State) : EchoBus × State :=
  match outgoing s with
  | none => (e, runExchange s)
  | some out =>
    let answered := if s.phase = .selected then echoHeader e out else echoPayload e out
    (answered.1, runExchange (supply answered.2 s))

/-- EchoBus answers a whole exchange: the header transfer, then the payload transfer. -/
def echoServe (e : EchoBus) (s : State) : EchoBus × State := echoRound (echoRound e s).1 (echoRound e s).2

/-! ### RegChip, optional (general knowledge G5): a chip whose payload bytes go to successive offsets -/

/-- RegChip: a byte for each (register, offset), and the header of the open bracket. -/
structure RegChip where
  mem    : Memory
  header : Option (Kind × Nat × Nat)
  deriving DecidableEq, Repr

/-- The bytes of a register, as a buffer of the chip: `mem[(r, offset)]`. -/
def chipReg (r : Nat) : Buf := ⟨r, 0⟩

/-- RegChip decodes the first transfer of a bracket. DESIGN CHOICE, unsafe: it answers zeros; the spec does not say what it
answers (notes/assumptions/26.md). -/
def chipHeader (c : RegChip) (out : List Byte) : RegChip × BusAnswer :=
  ({ c with header := readHeader out }, .ok (List.replicate out.length 0x00#8))

/-- RegChip reads, writes or masks the bytes from offset `s` of register `r` on. DESIGN CHOICE, unsafe: it answers zeros to
a written and to a masked payload, and to the payload after a header it cannot decode, which changes none of its bytes; the
spec gives no answer to these (notes/assumptions/26.md). -/
def chipPayload (c : RegChip) (out : List Byte) : RegChip × BusAnswer :=
  match c.header with
  | none => (c, .ok (List.replicate out.length 0x00#8))
  | some (k, r, s) =>
    match payloadDirection k with
    | .none => (c, .ok (List.replicate out.length 0x00#8))
    | .read => (c, .ok (readBytesFrom c.mem (chipReg r) s out.length))
    | .write => ({ c with mem := writeBytesFrom c.mem (chipReg r) s out }, .ok (List.replicate out.length 0x00#8))
    | .masked =>
      let old := readBytesFrom c.mem (chipReg r) s k.maskBytes
      let new := chipMaskedBytes old (out.take k.maskBytes) (out.drop k.maskBytes)
      ({ c with mem := writeBytesFrom c.mem (chipReg r) s new }, .ok (List.replicate out.length 0x00#8))

/-- RegChip answers the transfer the block waits on, and the block goes on. -/
def chipRound (c : RegChip) (s : State) : RegChip × State :=
  match outgoing s with
  | none => (c, runExchange s)
  | some out =>
    let answered := if s.phase = .selected then chipHeader c out else chipPayload c out
    (answered.1, runExchange (supply answered.2 s))

/-- RegChip answers a whole exchange. -/
def chipServe (c : RegChip) (s : State) : RegChip × State := chipRound (chipRound c s).1 (chipRound c s).2

end Sys2Proof.Machine
end

