-- ==== Sys2Proof/Safety.lean ====
section
/-! DEFINITION. The terms the claims are stated in: when an operation is accepted, what an exchange promises, the framing
of the bus calls, and the invariant of the machine. -/

namespace Sys2Proof.Machine

/-- An operation presented now is accepted: the configuration is legal (R6), PHASE is Idle (R19) and, as R26 says of every
such point, the select line is high. -/
structure State.Ready (s : State) : Prop where
  legal : s.cfg.legal = true
  idle  : s.phase = .idle
  high  : s.sel = .high

/-- The scalar of a little-endian byte sequence (20_memory.md R36): byte i holds bits 8i+7 down to 8i. -/
def littleEndian : List Byte → Nat
  | [] => 0
  | b :: rest => b.toNat + 256 * littleEndian rest

/-- Byte positions of the bus as wire events (R96). -/
def wireBytes (positions : List (Byte × Byte)) : List WireEvent := positions.map fun p => .byte p.1 p.2

/-- One `SelLow ... SelHigh` bracket (R116). -/
def bracket (positions : List (Byte × Byte)) : List WireEvent := .selLow :: wireBytes positions ++ [.selHigh]

/-- The `out` bytes of a wire trace (R118). -/
def sentBytes : List WireEvent → List Byte
  | [] => []
  | .selLow :: rest => sentBytes rest
  | .byte out _ :: rest => out :: sentBytes rest
  | .selHigh :: rest => sentBytes rest

/-- The header bytes of a kind with these raw register bytes (R58, R81). -/
def sentHeader (c : Config) (k : Kind) (reg sub : Byte) : List Byte :=
  wireHeader c.headerOrder (headerOf c.tags k reg sub)

/-- What an operation that has ended leaves as it was, and where it leaves the block: PHASE is Idle and SEL is high (R26);
the parameters (R150) and the operations still to be presented are untouched, and nothing of the call is left (R14). The latches are not named: they are
meaningless now (R15). -/
structure Ended (s t : State) : Prop where
  cfg      : t.cfg = s.cfg
  commands : t.commands = s.commands
  phase    : t.phase = .idle
  sel      : t.sel = .high
  quiet    : t.payload = [] ∧ t.dest = .none ∧ t.localBuf = []

/-- What R97 promises of an operation whose header bytes are `hdr` and whose payload bytes are `out`, whatever the
environment answers (an answer that has not come yet is UnansweredOperationWaits of Obligations.lean): `value` is the value of its result and `stored` its effect on the caller's memory, both from the
received payload bytes; `spoiled` are the addresses whose bytes a failure leaves open (R111). -/
structure ExchangeSpec (i : Instr) (s : State) (hdr out : List Byte) (value : List Byte → Value)
    (stored : List Byte → State → Prop) (spoiled : Nat → Prop) : Prop where
  /-- No payload: one transfer, and the result is `Ok` (R115). -/
  headerOnly : out = [] → ∀ a rest, s.answers = .ok a :: rest → a.length = hdr.length →
    ∃ t, exec i s = .next t ∧ Ended s t ∧ t.answers = rest ∧ t.result = some (.ok (value [])) ∧ stored [] t ∧
      wireTrace t.trace = wireTrace s.trace ++ bracket (hdr.zip a)
  /-- Both transfers answered: header bytes, then payload bytes, then the result `Ok`. -/
  completes : out ≠ [] → ∀ a b rest, s.answers = .ok a :: .ok b :: rest → a.length = hdr.length → b.length = out.length →
    ∃ t, exec i s = .next t ∧ Ended s t ∧ t.answers = rest ∧ t.result = some (.ok (value b)) ∧ stored b t ∧
      wireTrace t.trace = wireTrace s.trace ++ bracket (hdr.zip a ++ out.zip b)
  /-- The header transfer fails: no payload transfer is attempted, the line goes high, the error is returned (R110). -/
  headerFails : ∀ g rest, s.answers = .fail g :: rest →
    ∃ t, exec i s = .next t ∧ Ended s t ∧ t.answers = rest ∧ t.result = some (.err .busTransferFailure) ∧
      (∀ a, ¬ spoiled a → t.mem.read a = s.mem.read a) ∧
      wireTrace t.trace = wireTrace s.trace ++ bracket (hdr.zip g)
  /-- The payload transfer fails (R110): a prefix of the payload reached the wire (R22). -/
  payloadFails : out ≠ [] → ∀ a g rest, s.answers = .ok a :: .fail g :: rest → a.length = hdr.length →
    ∃ t, exec i s = .next t ∧ Ended s t ∧ t.answers = rest ∧ t.result = some (.err .busTransferFailure) ∧
      (∀ a, ¬ spoiled a → t.mem.read a = s.mem.read a) ∧
      wireTrace t.trace = wireTrace s.trace ++ bracket (hdr.zip a ++ out.zip g)

/-- An operation that stores nothing leaves the caller's memory as it was (R33). -/
def keepsMemory (s : State) (_received : List Byte) (t : State) : Prop := t.mem = s.mem

/-- A read puts the received bytes at `out[0..n)` and leaves every other byte as it was (R33, R101). -/
def readsInto (s : State) (out : Buf) (n : Nat) (received : List Byte) (t : State) : Prop :=
  readBytes t.mem out n = received ∧
    ∀ a, (∀ j, j < n → a ≠ bufAddr out j) → t.mem.read a = s.mem.read a

/-- A buffer shorter than the count is an error before the bus is touched (R109). -/
def tooShortIsAnError (i : Instr) (s : State) : Prop :=
  ∃ t, exec i s = .next t ∧ Ended s t ∧ t.answers = s.answers ∧ t.result = some (.err .bufferTooShort) ∧
    t.mem = s.mem ∧ t.trace = s.trace

/-- The three codec operations (40_codec.md). -/
def isCodec : Instr → Bool
  | .bitAt _ _ => true
  | .bitsInRange _ _ _ => true
  | .bitsInBuffer _ _ _ => true
  | .fastCommand _ => false
  | .shortRead _ _ _ => false
  | .shortWrite _ _ _ => false
  | .fullRead _ _ _ _ => false
  | .fullWrite _ _ _ _ => false
  | .maskedWrite1 _ _ _ _ => false
  | .maskedWrite2 _ _ _ _ => false
  | .maskedWrite4 _ _ _ _ => false
  | .encodeHeader _ _ _ => false
  | .getDeviceId => false
  | .writeTxBuffer _ _ => false
  | .writeTxbOffset => false
  | .readTxbOffset => false

/-- The operations with a caller buffer and a byte count: the buffer, the count, and whether its bytes are sent. -/
def payloadBuffer : Instr → Option (Buf × Nat × Bool)
  | .shortRead _ out n => some (out, n, false)
  | .fullRead _ _ out n => some (out, n, false)
  | .shortWrite _ buffer n => some (buffer, n, true)
  | .fullWrite _ _ buffer n => some (buffer, n, true)
  | .writeTxBuffer buffer n => some (buffer, txCount n, true)
  | .fastCommand _ => none
  | .maskedWrite1 _ _ _ _ => none
  | .maskedWrite2 _ _ _ _ => none
  | .maskedWrite4 _ _ _ _ => none
  | .bitAt _ _ => none
  | .bitsInRange _ _ _ => none
  | .bitsInBuffer _ _ _ => none
  | .encodeHeader _ _ _ => none
  | .getDeviceId => none
  | .writeTxbOffset => none
  | .readTxbOffset => none

/-- Whether an operation on the bus has a payload (R59): a count that is not 0, or the masks, or the four bytes of
GET_DEVICE_ID. -/
def sendsPayload (i : Instr) : Prop :=
  match payloadBuffer i with
  | some (_, n, _) => n ≠ 0
  | none => i.op ≠ .fastCommand

/-- The two compositions the spec leaves out of the admitted operations (R123, R124). -/
def isUndescribed : Instr → Bool
  | .writeTxbOffset => true
  | .readTxbOffset => true
  | .fastCommand _ => false
  | .shortRead _ _ _ => false
  | .shortWrite _ _ _ => false
  | .fullRead _ _ _ _ => false
  | .fullWrite _ _ _ _ => false
  | .maskedWrite1 _ _ _ _ => false
  | .maskedWrite2 _ _ _ _ => false
  | .maskedWrite4 _ _ _ _ => false
  | .bitAt _ _ => false
  | .bitsInRange _ _ _ => false
  | .bitsInBuffer _ _ _ => false
  | .encodeHeader _ _ _ => false
  | .getDeviceId => false
  | .writeTxBuffer _ _ => false

/-! ### Framing (R95, R116) -/

/-- Where the bus stands in the sequence of calls one exchange makes (R97). -/
inductive Line where
  | outside
  | begun
  | selected
  | headerSent
  | payloadSent
  | failed
  | raised
  deriving DecidableEq, Repr

/-- The only bus calls allowed at each point: begin, select, a header transfer, at most one payload transfer after it,
deselect, end. Nothing follows a failed transfer but the deselect. -/
def Line.after : Line → Event → Option Line
  | .outside, .busBegin _ => some .begun
  | .begun, .selLow => some .selected
  | .selected, .transfer _ _ true => some .headerSent
  | .selected, .transfer _ _ false => some .failed
  | .headerSent, .transfer _ _ true => some .payloadSent
  | .headerSent, .transfer _ _ false => some .failed
  | .headerSent, .selHigh => some .raised
  | .payloadSent, .selHigh => some .raised
  | .failed, .selHigh => some .raised
  | .raised, .busEnd => some .outside
  | _, _ => none

/-- Where a whole sequence of bus calls leaves the bus, if every call was allowed. -/
def Line.scan (l : Line) (calls : List Event) : Option Line :=
  match calls with
  | [] => some l
  | e :: rest => (l.after e).bind fun l' => Line.scan l' rest

/-- Where the bus calls so far have left the bus, by PHASE (R16). -/
def expectedLine (s : State) : Line :=
  match s.phase with
  | .idle => .outside
  | .selected => .selected
  | .headerSent => .headerSent
  | .payloadTransferred => if s.payload = [] then .headerSent else .payloadSent

/-- Whether a bus call is a `BusTransfer`. -/
def isTransfer : Event → Bool
  | .busBegin _ => false
  | .selLow => false
  | .transfer _ _ _ => true
  | .selHigh => false
  | .busEnd => false

/-! ### The invariant -/

/-- What holds in every state of a run, between operations and while one waits for the environment. -/
structure State.Inv (s : State) : Prop where
  /-- The caller's memory is in canonical form. -/
  memory : s.mem.wf = true
  /-- `SEL = low` if and only if `PHASE ≠ Idle` (R26). -/
  select : s.sel = .low ↔ s.phase ≠ .idle
  /-- Every bus call so far was in its place, and the bus stands where PHASE says (R116). -/
  framed : Line.scan .outside s.trace = some (expectedLine s)
  /-- While an operation is in progress, HDR, HLEN and LEN are what R15 says of them. -/
  latched : s.phase ≠ .idle →
    (s.latches.hdr, s.latches.hlen) = headerOf s.cfg.tags s.latches.kind s.latches.reg s.latches.sub ∧
      s.latches.len = s.payload.length
  /-- While a masked write is in progress its payload is AMASK, then OMASK (R108). -/
  masked : s.phase ≠ .idle → s.latches.kind.maskBytes ≠ 0 →
    s.payload = maskPayload s.cfg.maskOrder s.latches.kind.maskBytes s.latches.amask.toNat s.latches.omask.toNat
  /-- A read sends fill bytes only (R99). -/
  reading : s.dest ≠ .none → s.payload = List.replicate s.payload.length s.cfg.readFill
  /-- The local buffer of GET_DEVICE_ID has four bytes once they are received (R121). -/
  deviceId : s.dest = .deviceId → s.payload.length = 4 ∧ (s.phase = .payloadTransferred → s.localBuf.length = 4)
  /-- No result is pending while an operation is in progress, but the `Ok` of step 7 of R97. -/
  pending : s.phase ≠ .idle → s.result = if s.phase = .payloadTransferred then some (.ok .none) else none
  /-- Nothing of a call survives its end (R14). -/
  quiet : s.phase = .idle → s.payload = [] ∧ s.dest = .none ∧ s.localBuf = []

end Sys2Proof.Machine
end

