-- ==== Sys2Proof/Certificates/Slice0/Obligations.lean ====
section
/-! DEFINITION. What the provers are asked to prove of the machine. "D<n>" is a decision of 92_eei_decisions.md that a
cited rule rests on, "log <n>" is notes/assumptions/<n>.md. -/

section
open Sys2Proof Sys2Proof.Machine

/-! ### The Bit/Buffer Codec (40_codec.md) -/

/-- R71: BIT_AT returns the bit at the position, and changes RESULT alone; a position outside the scalar has no outcome
(the refusal is the rule's own, by D11). -/
def Obligations.BitAtReturnsTheBit : Prop :=
  ∀ (s : State) (value position : Nat), s.Ready →
    (position < s.cfg.scalarBits →
      exec (.bitAt value position) s =
        .next { s with result := some (.ok (.scalar (if value.testBit position then 1 else 0))) }) ∧
    (s.cfg.scalarBits ≤ position → exec (.bitAt value position) s = .refused .bitPositionOutOfRange)

/-- R72: BITS_IN_RANGE returns bits low to high, right-justified, and changes RESULT alone; any other range has no
outcome (the refusal is the rule's own, by D11). -/
def Obligations.BitsInRangeExtractsTheField : Prop :=
  ∀ (s : State) (value low high : Nat), s.Ready →
    (low ≤ high ∧ high < s.cfg.scalarBits →
      exec (.bitsInRange value low high) s =
        .next { s with result := some (.ok (.scalar (value / 2 ^ low % 2 ^ (high - low + 1)))) }) ∧
    (¬ (low ≤ high ∧ high < s.cfg.scalarBits) → exec (.bitsInRange value low high) s = .refused .bitRangeInvalid)

/-- R73: BITS_IN_BUFFER assembles bytes 0 to floor(high / 8) of the buffer little-endian and extracts the range from them;
a shorter buffer is BufferTooShort (D9), checked after the range (whose refusal is D11). -/
def Obligations.BitsInBufferAssemblesLittleEndian : Prop :=
  ∀ (s : State) (buffer : Buf) (low high : Nat), s.Ready →
    (low ≤ high ∧ high < s.cfg.scalarBits → high / 8 + 1 ≤ buffer.len →
      exec (.bitsInBuffer buffer low high) s =
        .next { s with
          result := some (.ok (.scalar
            (littleEndian (readBytes s.mem buffer (high / 8 + 1)) / 2 ^ low % 2 ^ (high - low + 1)))) }) ∧
    (low ≤ high ∧ high < s.cfg.scalarBits → buffer.len < high / 8 + 1 →
      exec (.bitsInBuffer buffer low high) s = .next { s with result := some (.err .bufferTooShort) }) ∧
    (¬ (low ≤ high ∧ high < s.cfg.scalarBits) → exec (.bitsInBuffer buffer low high) s = .refused .bitRangeInvalid)

/-- R74, the reconstruction law: what BITS_IN_RANGE returns, shifted left by low and masked to the range, gives back the
bits of the value in that range. -/
def Obligations.ExtractedBitsReconstructTheRange : Prop :=
  ∀ (s : State) (value low high : Nat), s.Ready → value < 2 ^ s.cfg.scalarBits → low ≤ high → high < s.cfg.scalarBits →
    ∃ x, exec (.bitsInRange value low high) s = .next { s with result := some (.ok (.scalar x)) } ∧
      (x <<< low) &&& ((2 ^ (high - low + 1) - 1) <<< low) = value &&& ((2 ^ (high - low + 1) - 1) <<< low)

/-- R76: BITS_IN_BUFFER depends on the bytes up to floor(high / 8) alone, whatever the buffer, its length and the rest of
the memory; and bit b of a buffer is bit b mod 8 of its byte floor(b / 8). -/
def Obligations.BufferFieldDependsOnItsPrefix : Prop :=
  (∀ (s s' : State) (b b' : Buf) (low high : Nat), s.Ready → s'.Ready → s.cfg = s'.cfg →
    low ≤ high → high < s.cfg.scalarBits → high / 8 < b.len → high / 8 < b'.len →
    (∀ j, j ≤ high / 8 → readBuf s.mem b j = readBuf s'.mem b' j) →
    ∃ x, exec (.bitsInBuffer b low high) s = .next { s with result := some (.ok (.scalar x)) } ∧
      exec (.bitsInBuffer b' low high) s' = .next { s' with result := some (.ok (.scalar x)) }) ∧
  (∀ (s : State) (b : Buf) (k : Nat), s.Ready → k < s.cfg.scalarBits → k / 8 < b.len →
    exec (.bitsInBuffer b k k) s =
      .next { s with result := some (.ok (.scalar (if (readBuf s.mem b (k / 8)).getLsbD (k % 8) then 1 else 0))) })

/-- R70 and R81: a codec operation or ENCODE_HEADER changes nothing but RESULT: no latch, no phase, no bus call, no byte
of memory. (That RESULT is written too is R18; log 22.) -/
def Obligations.LocalOperationsChangeResultAlone : Prop :=
  ∀ (i : Instr) (s t : State), (isCodec i = true ∨ i.op = .encodeHeader) → s.sel = .high → exec i s = .next t →
    t = { s with result := t.result } ∧ t.result ≠ none

/-! ### The Transaction Encoder (41_encoder.md) -/

/-- R81 and R90: for a known kind, ENCODE_HEADER returns the header of the document's table, as arithmetic on the tag and
the low 5 and 7 bits of the raw bytes, and its length; for an unknown kind it returns InvalidTransactionKind and no
header. Nothing but RESULT changes. -/
def Obligations.EncodeHeaderFollowsTheTable : Prop :=
  ∀ (s : State) (kindRaw : Nat) (reg sub : Byte), s.Ready →
    (∀ k, s.cfg.kindCodes.kind kindRaw = some k → k.format = .h8 →
      exec (.encodeHeader kindRaw reg sub) s =
        .next { s with result := some (.ok (.header
          (BitVec.ofNat 16 (((s.cfg.tags.tag k).toNat + 2 * (reg.toNat % 32)) % 256)) 1)) }) ∧
    (∀ k, s.cfg.kindCodes.kind kindRaw = some k → k.format = .h16 →
      exec (.encodeHeader kindRaw reg sub) s =
        .next { s with result := some (.ok (.header
          (BitVec.ofNat 16 ((s.cfg.tags.tag k).toNat + 512 * (reg.toNat % 32) + 4 * (sub.toNat % 128))) 2)) }) ∧
    (s.cfg.kindCodes.kind kindRaw = none →
      exec (.encodeHeader kindRaw reg sub) s = .next { s with result := some (.err .invalidTransactionKind) })

/-- R80 (D13) and R51: in the default numbering the eight kinds have the numbers 0 to 7 in the document's order, every other
number is unknown, and the first three kinds have the 8-bit format. In every legal numbering (log 25) the number of a kind
stands for that kind, and a number that is no kind's is unknown. -/
def Obligations.KindCodesAreInTheDocumentsOrder : Prop :=
  (∀ n, 8 ≤ n → KindCodes.standard.kind n = none) ∧
    (∀ k : Kind, KindCodes.standard.kind (KindCodes.standard.code k) = some k) ∧
    Kind.all.map KindCodes.standard.code = [0, 1, 2, 3, 4, 5, 6, 7] ∧
    (∀ k : Kind, k.format = .h8 ↔ KindCodes.standard.code k < 3) ∧
    (∀ (c : KindCodes) (n : Nat), c.legal = true →
      (∀ k, c.kind (c.code k) = some k) ∧ (c.kind n = none ↔ ∀ k, c.code k ≠ n))

/-- R93: for every legal tag table, decoding an encoded header gives back the kind and the low bits of the register bytes;
and encoding what a header decodes to gives that header back. -/
def Obligations.HeaderRoundTrip : Prop :=
  ∀ (t : TagTable), t.legal = true →
    (∀ (k : Kind) (reg sub : Byte), decodeHeader t k.format (headerOf t k reg sub).1 =
      some (match k.format with
        | .h8 => .h8 k (reg.setWidth 5)
        | .h16 => .h16 k (reg.setWidth 5) (sub.setWidth 7))) ∧
    (∀ (h : Half) (k : Kind) (r : BitVec 5), decodeHeader t .h8 h = some (.h8 k r) →
      k.format = .h8 ∧ ∀ sub, headerOf t k (r.setWidth 8) sub = (h, 1)) ∧
    (∀ (h : Half) (k : Kind) (r : BitVec 5) (s : BitVec 7), decodeHeader t .h16 h = some (.h16 k r s) →
      k.format = .h16 ∧ headerOf t k (r.setWidth 8) (s.setWidth 8) = (h, 2))

/-- R92 and R66, with the default tags and the high byte first: whatever follows a header on the wire, the header at the
front of the bytes decodes to its kind and fields and the rest is left. -/
def Obligations.WireHeaderDecodes : Prop :=
  ∀ (k : Kind) (reg sub : Byte) (rest : List Byte),
    decodeWire TagTable.standard (wireHeader .highFirst (headerOf TagTable.standard k reg sub) ++ rest) =
      .ok (match k.format with
        | .h8 => .h8 k (reg.setWidth 5)
        | .h16 => .h16 k (reg.setWidth 5) (sub.setWidth 7), rest)

/-- R37 and R58 (D3): an 8-bit header is its low byte; a 16-bit header is its two bytes, the high one first under the
default order, the low one first under the other. -/
def Obligations.HeaderBytesOnTheWire : Prop :=
  ∀ (c : Config) (k : Kind) (reg sub : Byte),
    (k.format = .h8 → sentHeader c k reg sub = [(headerOf c.tags k reg sub).1.extractLsb' 0 8]) ∧
    (k.format = .h16 → c.headerOrder = .highFirst →
      sentHeader c k reg sub =
        [(headerOf c.tags k reg sub).1.extractLsb' 8 8, (headerOf c.tags k reg sub).1.extractLsb' 0 8]) ∧
    (k.format = .h16 → c.headerOrder = .lowFirst →
      sentHeader c k reg sub =
        [(headerOf c.tags k reg sub).1.extractLsb' 0 8, (headerOf c.tags k reg sub).1.extractLsb' 8 8])

/-- R55 and R56: only the low 5 bits of a register byte and the low 7 bits of a sub-register byte reach a header, and an
8-bit kind ignores the sub-register byte. -/
def Obligations.RegisterBytesAreTruncatedSilently : Prop :=
  ∀ (s : State) (kindRaw : Nat) (reg sub sub' : Byte),
    exec (.encodeHeader kindRaw reg sub) s = exec (.encodeHeader kindRaw (reg &&& 0x1F#8) (sub &&& 0x7F#8)) s ∧
    (∀ k, s.cfg.kindCodes.kind kindRaw = some k → k.format = .h8 →
      exec (.encodeHeader kindRaw reg sub) s = exec (.encodeHeader kindRaw reg sub') s) ∧
    (∀ (k : Kind), sentHeader s.cfg k reg sub = sentHeader s.cfg k (reg &&& 0x1F#8) (sub &&& 0x7F#8))

/-- R85: with the one tag the document gives, FullRead's header is `0x4000 + r * 2^9 + s * 2^2`, of two bytes. -/
def Obligations.FullReadHeaderIsTheDocuments : Prop :=
  ∀ (s : State) (kindRaw : Nat) (reg sub : Byte), s.Ready → s.cfg.tags.fullRead = 0x4000#16 →
    s.cfg.kindCodes.kind kindRaw = some .fullRead →
    exec (.encodeHeader kindRaw reg sub) s =
      .next { s with result := some (.ok (.header
        (BitVec.ofNat 16 (0x4000 + 512 * (reg.toNat % 32) + 4 * (sub.toNat % 128))) 2)) }

/-- R94 and R90, law 9 of 95_test_vectors.md: header 0 of one byte is a legitimate result, and ENCODE_HEADER returns it
only for a known kind whose tag is 0 and a register field of 0. The first clause is about the default tags (D2) and a number that stands for ShortRead (1 in the default numbering, D13). -/
def Obligations.ZeroIsALegitimateHeader : Prop :=
  (∀ (s : State) (kindRaw : Nat) (sub : Byte), s.Ready → s.cfg.tags = TagTable.standard →
    s.cfg.kindCodes.kind kindRaw = some .shortRead →
    exec (.encodeHeader kindRaw 0x00#8 sub) s = .next { s with result := some (.ok (.header 0x0000#16 1)) }) ∧
  (∀ (s t : State) (kindRaw : Nat) (reg sub : Byte), s.Ready →
    exec (.encodeHeader kindRaw reg sub) s = .next t → t.result = some (.ok (.header 0x0000#16 1)) →
    ∃ k, s.cfg.kindCodes.kind kindRaw = some k ∧ s.cfg.tags.tag k = 0x0000#16 ∧ reg &&& 0x1F#8 = 0x00#8)

/-- R64, default tags (D2): a byte with bit 6 clear is no header exactly when it is `00rrrrr1`, and a 16-bit value with bit
14 set is no header exactly when it is `01rrrrrsssssssMM` with `MM ≠ 00`; every other one is a header. -/
def Obligations.NeverEmittedPatterns : Prop :=
  (∀ b : Byte, b.getLsbD 6 = false →
    (decodeHeader TagTable.standard .h8 (b.setWidth 16) = none ↔ b.getLsbD 7 = false ∧ b.getLsbD 0 = true)) ∧
  (∀ h : Half, h.getLsbD 14 = true →
    (decodeHeader TagTable.standard .h16 h = none ↔ h.getLsbD 15 = false ∧ h.extractLsb' 0 2 ≠ 0#2))

/-- In the arithmetic of R6 (D28), which tag tables are legal: a legal table meets the three constraints of R6, and the
default table is legal. That the three constraints suffice, so that a table without the tag 0 or with another FullRead tag
is legal too, is the model's choice (log 27; R61, R85). -/
def Obligations.LegalTagTables : Prop :=
  (∀ t : TagTable, t.legal = true ↔
    (∀ k : Kind, k.format = .h8 → (t.tag k).toNat < 0x100 ∧ t.tag k &&& 0x003E#16 = 0#16) ∧
    (∀ k : Kind, k.format = .h16 → t.tag k &&& 0x3FFC#16 = 0#16) ∧
    (∀ k k' : Kind, k.format = k'.format → t.tag k = t.tag k' → k = k')) ∧
  TagTable.standard.legal = true

/-! ### Commands, decoding and the step -/

/-- R19 and R67: presenting an operation and decoding what is presented gives the operation back, with every operand. -/
def Obligations.CommandRoundTrip : Prop :=
  ∀ i : Instr, decodeCommand (encodeCommand i) = .ok i

/-- R108 (D11): when the next command carries a mask that does not fit its variant, the step refuses it, and a masked write
whose masks fit is the operation with exactly these masks. That a scalar not below 2^W is refused is the model's choice
(log 12): R71 and R72 type the operand `uW` and name no refusal for it. -/
def Obligations.OperandsTooWideAreRefused : Prop :=
  ∀ (s : State) (c : Command) (rest : List Command), s.phase = .idle → s.commands = c :: rest →
    (c.op = .maskedWrite1 → (2 ^ 8 ≤ c.andMask ∨ 2 ^ 8 ≤ c.orMask) → step s = .refused .maskTooWide) ∧
    (c.op = .maskedWrite2 → (2 ^ 16 ≤ c.andMask ∨ 2 ^ 16 ≤ c.orMask) → step s = .refused .maskTooWide) ∧
    (c.op = .maskedWrite4 → (2 ^ 32 ≤ c.andMask ∨ 2 ^ 32 ≤ c.orMask) → step s = .refused .maskTooWide) ∧
    (c.op = .bitAt ∨ c.op = .bitsInRange → 2 ^ s.cfg.scalarBits ≤ c.value → step s = .refused .scalarTooWide) ∧
    (c.op = .maskedWrite1 → c.andMask < 2 ^ 8 → c.orMask < 2 ^ 8 →
      ∃ a o, a.toNat = c.andMask ∧ o.toNat = c.orMask ∧
        step s = exec (.maskedWrite1 c.reg c.sub a o) { s with commands := rest }) ∧
    (c.op = .maskedWrite2 → c.andMask < 2 ^ 16 → c.orMask < 2 ^ 16 →
      ∃ a o, a.toNat = c.andMask ∧ o.toNat = c.orMask ∧
        step s = exec (.maskedWrite2 c.reg c.sub a o) { s with commands := rest }) ∧
    (c.op = .maskedWrite4 → c.andMask < 2 ^ 32 → c.orMask < 2 ^ 32 →
      ∃ a o, a.toNat = c.andMask ∧ o.toNat = c.orMask ∧
        step s = exec (.maskedWrite4 c.reg c.sub a o) { s with commands := rest })

/-- `n` operands and N_MAX of R5 (D20); that a count the command interface cannot carry is refused by the step is the model's
choice (log 25). Under a bound the step refuses a count above it and runs the operation with a count up to it; without one,
the default, every count is carried. -/
def Obligations.CountsBeyondThePortAreRefused : Prop :=
  ∀ (s : State) (c : Command) (rest : List Command), s.phase = .idle → s.commands = c :: rest →
    c.op = .shortRead ∨ c.op = .shortWrite ∨ c.op = .fullRead ∨ c.op = .fullWrite ∨ c.op = .writeTxBuffer →
    (∀ m, s.cfg.nMax = some m → m < c.n → step s = .refused .countTooLarge) ∧
    (s.cfg.nMax = none ∨ (∃ m, s.cfg.nMax = some m ∧ c.n ≤ m) →
      ∃ i, decodeCommand c = .ok i ∧ step s = exec i { s with commands := rest })

/-- 30_encoding.md section 3 (R60): opcode-table words, written out bit by bit, decode to their instructions. The tags of all
but FULL_READ's word, and the high byte first, are presumed (D2, log 15; D3, log 16); that operands without bits are zero is
log 2. -/
def Obligations.TableWordsDecode : Prop :=
  decodeTableWord 8 0b10000011 = some (.fastCommand 0x01#8) ∧
  decodeTableWord 8 0b00010100 = some (.shortRead 0x0A#8 ⟨0, 0⟩ 0) ∧
  decodeTableWord 8 0b10010100 = some (.shortWrite 0x0A#8 ⟨0, 0⟩ 0) ∧
  decodeTableWord 16 0b0100110001000000 = some (.fullRead 0x06#8 0x10#8 ⟨0, 0⟩ 0) ∧
  decodeTableWord 16 0b1110001000100000 = some (.fullWrite 0x11#8 0x08#8 ⟨0, 0⟩ 0) ∧
  decodeTableWord 16 0b1100000010010010 = some (.maskedWrite2 0x00#8 0x24#8 0x0000#16 0x0000#16)

/-- R48: in a state where PHASE is Idle, a step takes the first presented operation off the list and runs it; where nothing
is presented it waits (R147), and where an operation waits it goes on with that one (log 1, log 2). -/
def Obligations.StepRunsThePresentedOperation : Prop :=
  (∀ (s : State) (c : Command) (rest : List Command) (i : Instr), s.phase = .idle → s.commands = c :: rest →
    decodeCommand c = .ok i → i.wellFormed s.cfg = true → step s = exec i { s with commands := rest }) ∧
  (∀ s : State, s.phase = .idle → s.commands = [] → step s = .next s) ∧
  (∀ s : State, s.phase ≠ .idle → step s = .next (runExchange s))

/-- Log 2: an opcode-table word put where the machine takes its next operation is run by the next step. -/
def Obligations.FetchedWordRuns : Prop :=
  ∀ (s : State) (nbits w : Nat) (i : Instr), decodeTableWord nbits w = some i →
    step (s.withFetchWord nbits w) = exec i { s with phase := .idle, sel := .high }

/-! ### The Register Access Protocol (42_protocol.md): one statement an operation: success and failures -/

/-- R100: FAST_COMMAND sends its header and no payload; only the low 5 bits of the command reach the wire. -/
def Obligations.FastCommandSendsItsHeader : Prop :=
  ∀ (s : State) (cmd : Byte), s.Ready →
    ExchangeSpec (.fastCommand cmd) s (sentHeader s.cfg .fastCommand cmd 0#8) [] (fun _ => .none) (keepsMemory s)
      (fun _ => False) ∧
    sentHeader s.cfg .fastCommand cmd 0#8 = sentHeader s.cfg .fastCommand (cmd &&& 0x1F#8) 0#8

/-- R101: SHORT_READ sends its header and n fill bytes, and puts the n received bytes into the buffer. -/
def Obligations.ShortReadFillsTheBuffer : Prop :=
  ∀ (s : State) (reg : Byte) (out : Buf) (n : Nat), s.Ready → s.mem.wf = true →
    (n ≤ out.len →
      ExchangeSpec (.shortRead reg out n) s (sentHeader s.cfg .shortRead reg 0#8) (List.replicate n s.cfg.readFill)
        (fun _ => .none) (readsInto s out n) (fun a => ∃ j, j < n ∧ a = bufAddr out j)) ∧
    (out.len < n → tooShortIsAnError (.shortRead reg out n) s)

/-- R102: SHORT_WRITE sends its header and the first n bytes of the buffer, which it leaves as it is. -/
def Obligations.ShortWriteSendsTheBuffer : Prop :=
  ∀ (s : State) (reg : Byte) (buffer : Buf) (n : Nat), s.Ready →
    (n ≤ buffer.len →
      ExchangeSpec (.shortWrite reg buffer n) s (sentHeader s.cfg .shortWrite reg 0#8) (readBytes s.mem buffer n)
        (fun _ => .none) (keepsMemory s) (fun _ => False)) ∧
    (buffer.len < n → tooShortIsAnError (.shortWrite reg buffer n) s)

/-- R103: FULL_READ sends its 16-bit header of register and sub-register and n fill bytes, and puts the n received bytes
into the buffer. -/
def Obligations.FullReadFillsTheBuffer : Prop :=
  ∀ (s : State) (reg sub : Byte) (out : Buf) (n : Nat), s.Ready → s.mem.wf = true →
    (n ≤ out.len →
      ExchangeSpec (.fullRead reg sub out n) s (sentHeader s.cfg .fullRead reg sub) (List.replicate n s.cfg.readFill)
        (fun _ => .none) (readsInto s out n) (fun a => ∃ j, j < n ∧ a = bufAddr out j)) ∧
    (out.len < n → tooShortIsAnError (.fullRead reg sub out n) s)

/-- R104: FULL_WRITE sends its 16-bit header of register and sub-register and the first n bytes of the buffer, which it
leaves as it is. -/
def Obligations.FullWriteSendsTheBuffer : Prop :=
  ∀ (s : State) (reg sub : Byte) (buffer : Buf) (n : Nat), s.Ready →
    (n ≤ buffer.len →
      ExchangeSpec (.fullWrite reg sub buffer n) s (sentHeader s.cfg .fullWrite reg sub) (readBytes s.mem buffer n)
        (fun _ => .none) (keepsMemory s) (fun _ => False)) ∧
    (buffer.len < n → tooShortIsAnError (.fullWrite reg sub buffer n) s)

/-- R105: MASKED_WRITE_1 sends its header, the and-mask and the or-mask; a chip that applies what was sent turns the 8-bit
destination into `(old & and_mask) | or_mask`. -/
def Obligations.MaskedWrite1SendsBothMasks : Prop :=
  ∀ (s : State) (reg sub : Byte) (a o : BitVec 8), s.Ready →
    ExchangeSpec (.maskedWrite1 reg sub a o) s (sentHeader s.cfg .maskedWrite1 reg sub) [a, o] (fun _ => .none)
      (keepsMemory s) (fun _ => False) ∧
    ∀ old : BitVec 8, chipMaskedBytes [old] [a] [o] = [(old &&& a) ||| o]

/-- R106 (byte order inside a mask: D4): MASKED_WRITE_2 sends its header, both bytes of the and-mask, then both bytes of
the or-mask, low byte first under the default order and high byte first under the other; a chip that applies what was sent
low byte first to a little-endian destination turns it into `(old & and_mask) | or_mask`. -/
def Obligations.MaskedWrite2SendsBothMasks : Prop :=
  ∀ (s : State) (reg sub : Byte) (a o : BitVec 16), s.Ready →
    (s.cfg.maskOrder = .lowFirst →
      ExchangeSpec (.maskedWrite2 reg sub a o) s (sentHeader s.cfg .maskedWrite2 reg sub)
        [a.extractLsb' 0 8, a.extractLsb' 8 8, o.extractLsb' 0 8, o.extractLsb' 8 8] (fun _ => .none)
        (keepsMemory s) (fun _ => False)) ∧
    (s.cfg.maskOrder = .highFirst →
      ExchangeSpec (.maskedWrite2 reg sub a o) s (sentHeader s.cfg .maskedWrite2 reg sub)
        [a.extractLsb' 8 8, a.extractLsb' 0 8, o.extractLsb' 8 8, o.extractLsb' 0 8] (fun _ => .none)
        (keepsMemory s) (fun _ => False)) ∧
    ∀ old : BitVec 16,
      chipMaskedBytes (bytesLe old.toNat 2) [a.extractLsb' 0 8, a.extractLsb' 8 8]
        [o.extractLsb' 0 8, o.extractLsb' 8 8] = bytesLe ((old &&& a) ||| o).toNat 2

/-- R107 (byte order inside a mask: D4): MASKED_WRITE_4 sends its header, the four bytes of the and-mask, then
the four bytes of the or-mask, low byte first under the default order and high byte first under the other; a chip that
applies what was sent low byte first to a little-endian destination turns it into `(old & and_mask) | or_mask`. -/
def Obligations.MaskedWrite4SendsBothMasks : Prop :=
  ∀ (s : State) (reg sub : Byte) (a o : BitVec 32), s.Ready →
    (s.cfg.maskOrder = .lowFirst →
      ExchangeSpec (.maskedWrite4 reg sub a o) s (sentHeader s.cfg .maskedWrite4 reg sub)
        [a.extractLsb' 0 8, a.extractLsb' 8 8, a.extractLsb' 16 8, a.extractLsb' 24 8,
         o.extractLsb' 0 8, o.extractLsb' 8 8, o.extractLsb' 16 8, o.extractLsb' 24 8] (fun _ => .none)
        (keepsMemory s) (fun _ => False)) ∧
    (s.cfg.maskOrder = .highFirst →
      ExchangeSpec (.maskedWrite4 reg sub a o) s (sentHeader s.cfg .maskedWrite4 reg sub)
        [a.extractLsb' 24 8, a.extractLsb' 16 8, a.extractLsb' 8 8, a.extractLsb' 0 8,
         o.extractLsb' 24 8, o.extractLsb' 16 8, o.extractLsb' 8 8, o.extractLsb' 0 8] (fun _ => .none)
        (keepsMemory s) (fun _ => False)) ∧
    ∀ old : BitVec 32,
      chipMaskedBytes (bytesLe old.toNat 4)
        [a.extractLsb' 0 8, a.extractLsb' 8 8, a.extractLsb' 16 8, a.extractLsb' 24 8]
        [o.extractLsb' 0 8, o.extractLsb' 8 8, o.extractLsb' 16 8, o.extractLsb' 24 8] =
      bytesLe ((old &&& a) ||| o).toNat 4

/-! ### The compositions (43_compositions.md) -/

/-- R121 (which read: D18): GET_DEVICE_ID is one full read of four bytes at the device-ID register's address, and returns
the fields of the bytes received: ridtag bits 16 to 31, model bits 8 to 15, ver bits 4 to 7, rev bits 0 to 3. No byte of
the caller's memory changes, even on a failure. -/
def Obligations.DeviceIdIsReadAndSplit : Prop :=
  ∀ s : State, s.Ready →
    ExchangeSpec .getDeviceId s (sentHeader s.cfg .fullRead s.cfg.devIdReg s.cfg.devIdSub)
      (List.replicate 4 s.cfg.readFill)
      (fun received =>
        match received with
        | [b0, b1, b2, b3] => .deviceId (b3 ++ b2) b1 (b0.extractLsb' 4 4) (b0.extractLsb' 0 4)
        | _ => .none)
      (keepsMemory s) (fun _ => False)

/-- R122: WRITE_TX_BUFFER is one write, short or full by the OPEN parameter (D17), of the first min(n, 1024) bytes of the
buffer; the buffer check uses the clamped count. -/
def Obligations.TxBufferWriteIsClamped : Prop :=
  ∀ (s : State) (buffer : Buf) (n : Nat), s.Ready →
    (min n 1024 ≤ buffer.len → s.cfg.txBufMode = .short →
      ExchangeSpec (.writeTxBuffer buffer n) s (sentHeader s.cfg .shortWrite s.cfg.txBufReg 0#8)
        (readBytes s.mem buffer (min n 1024)) (fun _ => .none) (keepsMemory s) (fun _ => False)) ∧
    (min n 1024 ≤ buffer.len → s.cfg.txBufMode = .full →
      ExchangeSpec (.writeTxBuffer buffer n) s (sentHeader s.cfg .fullWrite s.cfg.txBufReg s.cfg.txBufSub)
        (readBytes s.mem buffer (min n 1024)) (fun _ => .none) (keepsMemory s) (fun _ => False)) ∧
    (buffer.len < min n 1024 → tooShortIsAnError (.writeTxBuffer buffer n) s)

/-- R123 and R124 (D19): the two compositions the source names and does not describe are refused by name. -/
def Obligations.UndescribedCompositionsAreRefused : Prop :=
  ∀ s : State, exec .writeTxbOffset s = .refused .writeTxbOffsetUndescribed ∧
    exec .readTxbOffset s = .refused .readTxbOffsetUndescribed

/-! ### Errors and refusals (60_exceptions.md) -/

/-- R109 (D9), with the clamped count for WRITE_TX_BUFFER (R122, derived there; R129): a read or a write with a buffer
shorter than its count ends with BufferTooShort whatever the environment would answer: no bus call, no byte of memory
written, PHASE Idle. With a buffer that is long enough it never ends so, and neither does an operation without a count
(R109, R121, R129); BITS_IN_BUFFER, which has its own check (R73), is BitsInBufferAssemblesLittleEndian. -/
def Obligations.BufferIsCheckedBeforeTheBus : Prop :=
  (∀ (i : Instr) (s : State) (b : Buf) (n : Nat) (sent : Bool), s.Ready → payloadBuffer i = some (b, n, sent) → b.len < n →
    tooShortIsAnError i s) ∧
  (∀ (i : Instr) (s t : State) (b : Buf) (n : Nat) (sent : Bool), payloadBuffer i = some (b, n, sent) → n ≤ b.len →
    exec i s = .next t → t.result ≠ some (.err .bufferTooShort)) ∧
  (∀ (i : Instr) (s t : State), payloadBuffer i = none → i.op ≠ .bitsInBuffer → exec i s = .next t →
    t.result ≠ some (.err .bufferTooShort))

/-- R128 to R130: each error has its cause. InvalidTransactionKind comes from ENCODE_HEADER with an unknown kind only,
BufferTooShort from a buffer that is too short only, BusTransferFailure from a failed transfer of this very operation only: a fail among the answers it took. -/
def Obligations.EachErrorHasItsCause : Prop :=
  ∀ (i : Instr) (s t : State), exec i s = .next t →
    (t.result = some (.err .invalidTransactionKind) →
      ∃ kindRaw reg sub, i = .encodeHeader kindRaw reg sub ∧ s.cfg.kindCodes.kind kindRaw = none) ∧
    (t.result = some (.err .bufferTooShort) →
      (∃ b n sent, payloadBuffer i = some (b, n, sent) ∧ b.len < n) ∨
      (∃ b low high, i = .bitsInBuffer b low high ∧ b.len < high / 8 + 1)) ∧
    (t.result = some (.err .busTransferFailure) →
      ∃ used received, s.answers = used ++ t.answers ∧ BusAnswer.fail received ∈ used)

/-- R136 to R138: after an error the select line is high and PHASE is Idle, and the next operation is accepted exactly as
after Ok. -/
def Obligations.AfterAnErrorTheBlockIsReady : Prop :=
  ∀ (i : Instr) (s t : State) (e : ErrorKind), s.Ready → exec i s = .next t → t.result = some (.err e) →
    t.Ready ∧ (Line.scan .outside s.trace = some .outside → Line.scan .outside t.trace = some .outside)

/-- R19, R132 and step 0 of R97 (D26): while PHASE is not Idle every described operation is refused. -/
def Obligations.BusyBlockRefuses : Prop :=
  ∀ (i : Instr) (s : State), s.cfg.legal = true → s.phase ≠ .idle → isUndescribed i = false →
    exec i s = .refused .busy

/-- Under an illegal configuration every described operation is refused. That a tag table which breaks R6 is refused is R6 and
R132 (D28). The rest is the model's choice: that it is every operation (log 14), and that W below 32 (log 12), a bound
N_MAX below 2000 or a numbering that gives two kinds one number (log 25) are illegal too. -/
def Obligations.IllegalConfigurationRefuses : Prop :=
  ∀ (i : Instr) (s : State), s.cfg.legal = false → isUndescribed i = false → exec i s = .refused .illegalConfiguration

/-! ### The exchange as a whole (42_protocol.md R95 to R119) -/

/-- R112: the transition table of PHASE, row by row: from Idle, an exchange whose buffer check passes goes on from Selected,
and one whose buffer check fails leaves PHASE Idle with no bus call; then the rows from Selected on. Codec and encoder
operations do not move PHASE, and while no answer has come PHASE stays (log 1). -/
def Obligations.PhaseTransitionTable : Prop :=
  (∀ (r : Request) (s : State), s.Ready → r.tooShort = false →
    exchange r s = .next (runExchange (openExchange r s)) ∧ (openExchange r s).phase = .selected ∧
      (openExchange r s).sel = .low ∧ (openExchange r s).answers = s.answers) ∧
  (∀ (r : Request) (s : State), s.Ready → r.tooShort = true →
    ∃ t, exchange r s = .next t ∧ t.phase = .idle ∧ t.sel = .high ∧ t.trace = s.trace ∧ t.answers = s.answers) ∧
  (∀ (i : Instr) (s t : State), (isCodec i = true ∨ i.op = .encodeHeader) → exec i s = .next t → t.phase = s.phase) ∧
  (∀ s : State, s.phase = .idle → advance s = s) ∧
  (∀ (s : State) (a : List Byte) (rest : List BusAnswer), s.phase = .selected → s.answers = .ok a :: rest →
    (advance s).phase = .headerSent ∧ (advance s).sel = s.sel) ∧
  (∀ (s : State) (g : List Byte) (rest : List BusAnswer), s.phase = .selected → s.sel = .low →
    s.answers = .fail g :: rest → (advance s).phase = .idle ∧ (advance s).sel = .high) ∧
  (∀ s : State, s.phase = .headerSent → s.latches.len = 0 →
    (advance s).phase = .payloadTransferred ∧ (advance s).answers = s.answers) ∧
  (∀ (s : State) (b : List Byte) (rest : List BusAnswer), s.phase = .headerSent → s.latches.len ≠ 0 →
    s.answers = .ok b :: rest → (advance s).phase = .payloadTransferred ∧ (advance s).sel = s.sel) ∧
  (∀ (s : State) (g : List Byte) (rest : List BusAnswer), s.phase = .headerSent → s.latches.len ≠ 0 → s.sel = .low →
    s.answers = .fail g :: rest → (advance s).phase = .idle ∧ (advance s).sel = .high) ∧
  (∀ s : State, s.phase = .payloadTransferred → (advance s).phase = .idle ∧ (advance s).sel = .high) ∧
  (∀ s : State, s.answers = [] → s.phase = .selected ∨ (s.phase = .headerSent ∧ s.latches.len ≠ 0) → advance s = s)

/-- R26, R116, R15, R108 at every point between two steps of R97: one transition keeps the invariant. -/
def Obligations.TransitionKeepsTheInvariant : Prop :=
  ∀ s : State, s.Inv → (advance s).Inv

/-- R26 and R116 over whole operations: every step keeps the invariant: SEL is low exactly while PHASE is not Idle, the bus
calls are framed as R95 says, the latches, the payload and RESULT are those of the operation in progress, and the memory
is canonical. -/
def Obligations.StepKeepsTheInvariant : Prop :=
  ∀ s t : State, s.Inv → step s = .next t → t.Inv

/-- The invariant holds after reset. -/
def Obligations.ResetMeetsTheInvariant : Prop := State.reset.Inv

/-- R30 and R147 (D14): after reset PHASE is Idle, SEL is high and no result is pending, the configuration is legal, and
the block waits for the first operation. -/
def Obligations.ResetWaitsForTheFirstOperation : Prop :=
  State.reset.phase = .idle ∧ State.reset.sel = .high ∧ State.reset.result = none ∧ State.reset.cfg.legal = true ∧
    step State.reset = .next State.reset

/-- R30 and R147 (D14): a reset of an Idle block leaves PHASE Idle, SEL high and no result pending, and leaves the parameters
and every byte of the caller's buffers as they were; while PHASE is not Idle a reset is not admitted. It keeps the
invariant. That the operations still to be presented, the answers to come and the bus calls so far stay as they are is the
model's choice (log 28). -/
def Obligations.ResetKeepsTheCallersBuffers : Prop :=
  ∀ s : State,
    (s.phase = .idle →
      ∃ t, resetBlock s = .next t ∧ t.phase = .idle ∧ t.sel = .high ∧ t.result = none ∧ t.cfg = s.cfg ∧ t.mem = s.mem ∧
        t.commands = s.commands ∧ t.answers = s.answers ∧ t.trace = s.trace ∧ (s.Inv → t.Inv)) ∧
    (s.phase ≠ .idle → resetBlock s = .refused .resetWhileBusy)

/-- The defaults of R5 after reset: those of the source (FullRead's tag) and those the spec decides (D1 to D5, D13, D18, D20) or takes
from general knowledge (the other tags, the wire byte orders: logs 15 to 18). -/
def Obligations.ResetHasTheDefaultParameters : Prop :=
  State.reset.cfg.tags.fullRead = 0x4000#16 ∧
  State.reset.cfg.tags = ⟨0x81#16, 0x00#16, 0x80#16, 0x4000#16, 0xC000#16, 0xC001#16, 0xC002#16, 0xC003#16⟩ ∧
  State.reset.cfg.scalarBits = 32 ∧ State.reset.cfg.headerOrder = .highFirst ∧ State.reset.cfg.maskOrder = .lowFirst ∧
  State.reset.cfg.readFill = 0x00#8 ∧ State.reset.cfg.devIdReg = 0x00#8 ∧ State.reset.cfg.devIdSub = 0x00#8 ∧
  State.reset.cfg.nMax = none ∧ State.reset.cfg.kindCodes = ⟨0, 1, 2, 3, 4, 5, 6, 7⟩

/-- R150, R25: no step changes a parameter. -/
def Obligations.ParametersAreConstant : Prop :=
  ∀ s t : State, step s = .next t → t.cfg = s.cfg

/-- R48, R95, R139: a step only adds bus calls to those made; it takes answers from the front, one for each transfer, two at
most; and it selects and deselects the chip at most once. So an operation is one exchange, and nothing is retried. The
premise is R26, part of the invariant. -/
def Obligations.OneStepIsAtMostOneExchange : Prop :=
  ∀ s t : State, (s.sel = .low ↔ s.phase ≠ .idle) → step s = .next t →
    ∃ calls used, t.trace = s.trace ++ calls ∧ s.answers = used ++ t.answers ∧ used.length ≤ 2 ∧
      calls.countP isTransfer = used.length ∧ calls.count .selLow ≤ 1 ∧ calls.count .selHigh ≤ 1

/-- R116, R110, law 5 of 95_test_vectors.md: when an operation has ended, its wire trace is empty or one
`SelLow ... SelHigh` bracket with nothing but bytes in it, whatever the environment answered. -/
def Obligations.EveryWireTraceIsOneBracket : Prop :=
  ∀ (i : Instr) (s t : State), s.Ready → exec i s = .next t → t.phase = .idle →
    t.trace = s.trace ∨ ∃ positions, wireTrace t.trace = wireTrace s.trace ++ bracket positions

/-- R97 steps 4 to 8 (D7, D8), R23, R25: the call trace of a successful operation with a wire encoding: BusBegin with
BUSCFG, select, one transfer of exactly the bytes `encode` gives, at most one payload transfer, deselect, BusEnd. -/
def Obligations.SuccessfulCallTrace : Prop :=
  ∀ (i : Instr) (s t : State) (hdr : List Byte) (v : Value), s.Ready → encode s.cfg i = some hdr → exec i s = .next t →
    t.phase = .idle → t.result = some (.ok v) →
    ∃ w payload, t.trace = s.trace ++ [.busBegin s.cfg.busCfg, .selLow, .transfer hdr w true] ++ payload ++
        [.selHigh, .busEnd] ∧ w.map Prod.fst = hdr ∧
      (payload = [] ∨ ∃ out p, payload = [.transfer out p true] ∧ p.map Prod.fst = out)

/-- R118: the sent bytes of a successful operation are a function of its operands, its source bytes and the parameters:
two runs from states that agree on these send the same bytes, whatever was received and whatever came before. -/
def Obligations.SentBytesDependOnOperandsOnly : Prop :=
  ∀ (i : Instr) (s s' t t' : State) (v v' : Value), s.Ready → s'.Ready → s.cfg = s'.cfg →
    (∀ b n, payloadBuffer i = some (b, n, true) → ∀ j, j < n → readBuf s.mem b j = readBuf s'.mem b j) →
    exec i s = .next t → exec i s' = .next t' → t.phase = .idle → t'.phase = .idle →
    t.result = some (.ok v) → t'.result = some (.ok v') →
    ∃ out, sentBytes (wireTrace t.trace) = sentBytes (wireTrace s.trace) ++ out ∧
      sentBytes (wireTrace t'.trace) = sentBytes (wireTrace s'.trace) ++ out

/-- R14, R15: nothing a latch or RESULT held before an operation makes a difference to it. That the two end states agree in
free values too (the bytes a failed read leaves, which are any value by R111; received bytes an answer leaves out) is the
model's choice: both draw them with the same counter (log 3, log 4, log 9). -/
def Obligations.NoOperationReadsAnEarlierLatch : Prop :=
  ∀ (i : Instr) (s t : State) (l : Latches) (r : Option Result), exec i s = .next t →
    ∃ l', exec i { s with latches := l, result := r } = .next { t with latches := l' }

/-- R119, in the form of log 1: while the environment has not answered, an operation does not return. Before the header's
answer PHASE is Selected and the header is what the bus is asked for; between the two answers PHASE is HeaderSent. SEL stays
low, no result is pending, and no byte of the caller's memory changes. That the wire trace so far is SelLow alone, and then
SelLow and the header bytes alone, is the model's choice (log 11: a transfer is recorded when it is answered); R119 leaves
open how much of the unanswered transfer is on the wire. -/
def Obligations.UnansweredOperationWaits : Prop :=
  ∀ (i : Instr) (s : State) (hdr : List Byte), s.Ready → encode s.cfg i = some hdr →
    (∀ b n sent, payloadBuffer i = some (b, n, sent) → n ≤ b.len) →
    (s.answers = [] →
      ∃ t, exec i s = .next t ∧ t.phase = .selected ∧ t.sel = .low ∧ t.result = none ∧ t.mem = s.mem ∧ t.cfg = s.cfg ∧
        t.commands = s.commands ∧ outgoing t = some hdr ∧ wireTrace t.trace = wireTrace s.trace ++ [.selLow]) ∧
    (∀ a, sendsPayload i → s.answers = [.ok a] → a.length = hdr.length →
      ∃ t, exec i s = .next t ∧ t.phase = .headerSent ∧ t.sel = .low ∧ t.result = none ∧ t.mem = s.mem ∧ t.cfg = s.cfg ∧
        t.commands = s.commands ∧ wireTrace t.trace = wireTrace s.trace ++ .selLow :: wireBytes (hdr.zip a))

/-- R119, R161 (that an operation waits in its phase and goes on in a later step is log 1): when the answers come makes no
difference. An operation that found only the first of them, and went on when the others had come, ends as it would have
with all of them there. That the two end states agree in free values too (the latches, the bytes a failed read leaves, which
are any value by R15 and R111; received bytes an answer leaves out) is the model's choice: both draw them with the same
counter (log 3, log 4, log 9). -/
def Obligations.AnswersMayComeLate : Prop :=
  ∀ (i : Instr) (s t t' : State) (now later : List BusAnswer),
    exec i { s with answers := now } = .next t → exec i { s with answers := now ++ later } = .next t' →
    runExchange { t with answers := t.answers ++ later } = t'

/-- R117: on a bus that echoes back the bytes last written, SHORT_WRITE followed by SHORT_READ of the same register returns
the written bytes unchanged, and both results are Ok. EchoBus decodes headers with the default tags (R92, D24, D27). -/
def Obligations.EchoReturnsTheWrittenBytes : Prop :=
  ∀ (e : EchoBus) (s : State) (reg : Byte) (buffer out : Buf) (n : Nat), s.Ready → s.mem.wf = true → s.answers = [] →
    s.cfg.tags = TagTable.standard → n ≤ buffer.len → n ≤ out.len →
    ∃ t u, exec (.shortWrite reg buffer n) s = .next t ∧
      (echoServe e t).2.result = some (.ok .none) ∧
      exec (.shortRead reg out n) (echoServe e t).2 = .next u ∧
      (echoServe (echoServe e t).1 u).2.result = some (.ok .none) ∧
      readBytes (echoServe (echoServe e t).1 u).2.mem out n = readBytes s.mem buffer n

/-- R44, the chip's masked write bit by bit: cleared where both masks have 0, set where the or-mask has 1, kept where the
and-mask has 1 and the or-mask 0. -/
def Obligations.MaskedWriteClearsSetsAndKeeps : Prop :=
  ∀ (w : Nat) (old a o : BitVec w) (j : Nat), j < w →
    (a.getLsbD j = false → o.getLsbD j = false → (chipMaskedValue old a o).getLsbD j = false) ∧
    (o.getLsbD j = true → (chipMaskedValue old a o).getLsbD j = true) ∧
    (a.getLsbD j = true → o.getLsbD j = false → (chipMaskedValue old a o).getLsbD j = old.getLsbD j)

end
end

