-- ==== Sys2Proof/Laws/Memory.lean ====
section
/-! SUPPORT. The caller's memory: a read after a write, and that every memory operation keeps the canonical form. -/

namespace Sys2Proof.Machine

theorem Memory.read_cons_same (a : Nat) (v : Byte) (m : Memory) (h : Memory.read m a = Memory.unlisted) :
    Memory.read (Memory.cons a v m) a = v := by
  unfold Memory.cons
  split
  · simp_all
  · simp [Memory.read]

theorem Memory.read_cons_of_ne {a b : Nat} (v : Byte) (m : Memory) (h : b ≠ a) :
    Memory.read (Memory.cons a v m) b = Memory.read m b := by
  unfold Memory.cons
  split
  · rfl
  · simp [Memory.read, Ne.symm h]

/-- A canonical list above `lo` has no byte at or below `lo`. -/
theorem Memory.read_of_wfAbove (m : Memory) (lo a : Nat) (h : Memory.wfAbove lo m = true) (ha : a ≤ lo) :
    Memory.read m a = Memory.unlisted := by
  induction m generalizing lo with
  | nil => rfl
  | cons c rest ih =>
    simp only [Memory.wfAbove, Bool.and_eq_true, decide_eq_true_eq] at h
    have hne : c.1 ≠ a := by omega
    simp only [Memory.read, hne, if_false]
    exact ih c.1 h.2 (by omega)

theorem Memory.wfAbove_mono (m : Memory) {lo lo' : Nat} (h : Memory.wfAbove lo m = true) (hl : lo' ≤ lo) :
    Memory.wfAbove lo' m = true := by
  cases m with
  | nil => rfl
  | cons c rest =>
    simp only [Memory.wfAbove, Bool.and_eq_true, decide_eq_true_eq] at h ⊢
    exact ⟨⟨by omega, h.1.2⟩, h.2⟩

theorem Memory.wf_of_wfAbove (m : Memory) {lo : Nat} (h : Memory.wfAbove lo m = true) : Memory.wf m = true := by
  cases m with
  | nil => rfl
  | cons c rest =>
    simp only [Memory.wfAbove, Memory.wf, Bool.and_eq_true] at h ⊢
    exact ⟨h.1.2, h.2⟩

theorem Memory.wfAbove_cons {a lo : Nat} (v : Byte) (m : Memory) (h : Memory.wfAbove a m = true) (hl : lo < a) :
    Memory.wfAbove lo (Memory.cons a v m) = true := by
  unfold Memory.cons
  split
  · exact Memory.wfAbove_mono m h (by omega)
  · rename_i hv
    simp [Memory.wfAbove, hl, hv, h]

theorem Memory.write_wfAbove (m : Memory) (lo a : Nat) (v : Byte) (h : Memory.wfAbove lo m = true) (hl : lo < a) :
    Memory.wfAbove lo (Memory.write m a v) = true := by
  induction m generalizing lo with
  | nil => exact Memory.wfAbove_cons v [] rfl hl
  | cons c rest ih =>
    have h' := h
    simp only [Memory.wfAbove, Bool.and_eq_true, decide_eq_true_eq] at h'
    unfold Memory.write
    split
    · rename_i hlt
      refine Memory.wfAbove_cons v _ ?_ hl
      simp only [Memory.wfAbove, Bool.and_eq_true, decide_eq_true_eq]
      exact ⟨⟨hlt, h'.1.2⟩, h'.2⟩
    · split
      · rename_i heq
        exact Memory.wfAbove_cons v rest (heq ▸ h'.2) hl
      · simp only [Memory.wfAbove, Bool.and_eq_true, decide_eq_true_eq]
        exact ⟨h'.1, ih c.1 h'.2 (by omega)⟩

/-- A write keeps the canonical form. -/
theorem Memory.write_wf (m : Memory) (a : Nat) (v : Byte) (h : Memory.wf m = true) :
    Memory.wf (Memory.write m a v) = true := by
  cases m with
  | nil =>
    unfold Memory.write Memory.cons
    split
    · rfl
    · rename_i hv
      simp [Memory.wf, Memory.wfAbove, hv]
  | cons c rest =>
    have h' := h
    simp only [Memory.wf, Bool.and_eq_true, decide_eq_true_eq] at h'
    unfold Memory.write
    split
    · rename_i hlt
      unfold Memory.cons
      split
      · exact h
      · rename_i hv
        simp only [Memory.wf, Memory.wfAbove, Bool.and_eq_true, decide_eq_true_eq]
        exact ⟨hv, ⟨hlt, h'.1⟩, h'.2⟩
    · split
      · rename_i heq
        unfold Memory.cons
        split
        · exact Memory.wf_of_wfAbove rest h'.2
        · rename_i hv
          simp only [Memory.wf, Bool.and_eq_true, decide_eq_true_eq]
          exact ⟨hv, heq ▸ h'.2⟩
      · simp only [Memory.wf, Bool.and_eq_true, decide_eq_true_eq]
        exact ⟨h'.1, Memory.write_wfAbove rest c.1 a v h'.2 (by omega)⟩

/-- A write leaves every other address as it was. -/
theorem Memory.read_write_of_ne (m : Memory) {a b : Nat} (v : Byte) (h : b ≠ a) :
    Memory.read (Memory.write m a v) b = Memory.read m b := by
  induction m with
  | nil => exact Memory.read_cons_of_ne v [] h
  | cons c rest ih =>
    unfold Memory.write
    split
    · exact Memory.read_cons_of_ne v _ h
    · split
      · rename_i heq
        rw [Memory.read_cons_of_ne v rest h]
        simp [Memory.read, heq, Ne.symm h]
      · simp only [Memory.read, ih]

theorem Memory.read_write_same_above (m : Memory) (lo a : Nat) (v : Byte) (h : Memory.wfAbove lo m = true) :
    Memory.read (Memory.write m a v) a = v := by
  induction m generalizing lo with
  | nil => exact Memory.read_cons_same a v [] rfl
  | cons c rest ih =>
    simp only [Memory.wfAbove, Bool.and_eq_true, decide_eq_true_eq] at h
    unfold Memory.write
    split
    · rename_i hlt
      refine Memory.read_cons_same a v _ (Memory.read_of_wfAbove _ a a ?_ (Nat.le_refl a))
      simp only [Memory.wfAbove, Bool.and_eq_true, decide_eq_true_eq]
      exact ⟨⟨hlt, h.1.2⟩, h.2⟩
    · split
      · rename_i heq
        exact Memory.read_cons_same a v rest (Memory.read_of_wfAbove rest c.1 a h.2 (by omega))
      · rename_i hne
        simp only [Memory.read, hne, if_false]
        exact ih c.1 h.2

/-- A read after a write to the same address gives the byte written. -/
theorem Memory.read_write_same (m : Memory) (a : Nat) (v : Byte) (h : Memory.wf m = true) :
    Memory.read (Memory.write m a v) a = v := by
  cases m with
  | nil => exact Memory.read_cons_same a v [] rfl
  | cons c rest =>
    simp only [Memory.wf, Bool.and_eq_true, decide_eq_true_eq] at h
    unfold Memory.write
    split
    · rename_i hlt
      refine Memory.read_cons_same a v _ (Memory.read_of_wfAbove _ a a ?_ (Nat.le_refl a))
      simp only [Memory.wfAbove, Bool.and_eq_true, decide_eq_true_eq]
      exact ⟨⟨hlt, h.1⟩, h.2⟩
    · split
      · rename_i heq
        exact Memory.read_cons_same a v rest (Memory.read_of_wfAbove rest c.1 a h.2 (by omega))
      · rename_i hne
        simp only [Memory.read, hne, if_false]
        exact Memory.read_write_same_above rest c.1 a v h.2

/-- Two bytes of buffers have one address only if they are the same byte of the same buffer (R9). -/
theorem bufAddr_inj {b c : Buf} {i j : Nat} : bufAddr b i = bufAddr c j ↔ b.id = c.id ∧ i = j := by
  simp [bufAddr, Nat.pair_eq_pair]

/-- Storing bytes keeps the canonical form. -/
theorem writeBytesFrom_wf (bytes : List Byte) (m : Memory) (b : Buf) (start : Nat) (h : Memory.wf m = true) :
    Memory.wf (writeBytesFrom m b start bytes) = true := by
  induction bytes generalizing m start with
  | nil => exact h
  | cons v rest ih => exact ih _ _ (Memory.write_wf m _ v h)

theorem writeBytes_wf (m : Memory) (b : Buf) (bytes : List Byte) (h : Memory.wf m = true) :
    Memory.wf (writeBytes m b bytes) = true := writeBytesFrom_wf bytes m b 0 h

/-- Storing bytes from `buf[start]` on leaves every address outside `buf[start..start+len)` as it was. -/
theorem writeBytesFrom_read_other (bytes : List Byte) (m : Memory) (b : Buf) (start a : Nat)
    (h : ∀ j, start ≤ j → j < start + bytes.length → a ≠ bufAddr b j) :
    Memory.read (writeBytesFrom m b start bytes) a = Memory.read m a := by
  induction bytes generalizing m start with
  | nil => rfl
  | cons v rest ih =>
    simp only [writeBytesFrom]
    rw [ih]
    · exact Memory.read_write_of_ne m v (h start (Nat.le_refl _) (by simp))
    · intro j h1 h2
      exact h j (by omega) (by simp only [List.length_cons]; omega)

theorem writeBytes_read_other (m : Memory) (b : Buf) (bytes : List Byte) (a : Nat)
    (h : ∀ j, j < bytes.length → a ≠ bufAddr b j) :
    Memory.read (writeBytes m b bytes) a = Memory.read m a :=
  writeBytesFrom_read_other bytes m b 0 a fun j _ hj => h j (by omega)

@[simp] theorem readBytesFrom_length (m : Memory) (b : Buf) (start n : Nat) : (readBytesFrom m b start n).length = n := by
  induction n generalizing start with
  | zero => rfl
  | succ n ih => simp [readBytesFrom, ih]

@[simp] theorem readBytes_length (m : Memory) (b : Buf) (n : Nat) : (readBytes m b n).length = n :=
  readBytesFrom_length m b 0 n

/-- Reading bytes depends on those bytes alone. -/
theorem readBytesFrom_congr {m m' : Memory} {b c : Buf} {start n : Nat}
    (h : ∀ j, start ≤ j → j < start + n → readBuf m b j = readBuf m' c j) :
    readBytesFrom m b start n = readBytesFrom m' c start n := by
  induction n generalizing start with
  | zero => rfl
  | succ n ih =>
    simp only [readBytesFrom]
    rw [h start (Nat.le_refl _) (by omega), ih fun j h1 h2 => h j (by omega) (by omega)]

/-- The bytes stored are the bytes read back, through any name of the same buffer. -/
theorem readBytesFrom_writeBytesFrom (bytes : List Byte) (m : Memory) (b c : Buf) (start : Nat) (hid : c.id = b.id)
    (h : Memory.wf m = true) : readBytesFrom (writeBytesFrom m b start bytes) c start bytes.length = bytes := by
  induction bytes generalizing m start with
  | nil => rfl
  | cons v rest ih =>
    simp only [writeBytesFrom, List.length_cons, readBytesFrom]
    congr 1
    · have hc : bufAddr c start = bufAddr b start := bufAddr_inj.2 ⟨hid, rfl⟩
      simp only [readBuf, hc]
      rw [writeBytesFrom_read_other rest _ b (start + 1) _ fun j h1 _ he => by
        have := (bufAddr_inj.1 he).2; omega]
      exact Memory.read_write_same m _ v h
    · exact ih _ _ (Memory.write_wf m _ v h)

theorem readBytes_writeBytes (m : Memory) (b : Buf) (bytes : List Byte) (h : Memory.wf m = true) :
    readBytes (writeBytes m b bytes) b bytes.length = bytes :=
  readBytesFrom_writeBytesFrom bytes m b b 0 rfl h

end Sys2Proof.Machine
end

