-- ==== Sys2Proof/Laws/State.lean ====
section
/-! SUPPORT. What each update of State does to each field: one lemma per field per update, true by unfolding. -/

namespace Sys2Proof.Machine

/-! ### deliver -/

@[simp] theorem deliver_cfg (r : Result) (s : State) : (deliver r s).cfg = s.cfg := rfl
@[simp] theorem deliver_phase (r : Result) (s : State) : (deliver r s).phase = s.phase := rfl
@[simp] theorem deliver_sel (r : Result) (s : State) : (deliver r s).sel = s.sel := rfl
@[simp] theorem deliver_latches (r : Result) (s : State) : (deliver r s).latches = s.latches := rfl
@[simp] theorem deliver_result (r : Result) (s : State) : (deliver r s).result = some r := rfl
@[simp] theorem deliver_payload (r : Result) (s : State) : (deliver r s).payload = s.payload := rfl
@[simp] theorem deliver_dest (r : Result) (s : State) : (deliver r s).dest = s.dest := rfl
@[simp] theorem deliver_localBuf (r : Result) (s : State) : (deliver r s).localBuf = s.localBuf := rfl
@[simp] theorem deliver_commands (r : Result) (s : State) : (deliver r s).commands = s.commands := rfl
@[simp] theorem deliver_answers (r : Result) (s : State) : (deliver r s).answers = s.answers := rfl
@[simp] theorem deliver_mem (r : Result) (s : State) : (deliver r s).mem = s.mem := rfl
@[simp] theorem deliver_trace (r : Result) (s : State) : (deliver r s).trace = s.trace := rfl
@[simp] theorem deliver_draws (r : Result) (s : State) : (deliver r s).draws = s.draws := rfl

/-! ### clearResult -/

@[simp] theorem clearResult_cfg (s : State) : (clearResult s).cfg = s.cfg := rfl
@[simp] theorem clearResult_phase (s : State) : (clearResult s).phase = s.phase := rfl
@[simp] theorem clearResult_sel (s : State) : (clearResult s).sel = s.sel := rfl
@[simp] theorem clearResult_latches (s : State) : (clearResult s).latches = s.latches := rfl
@[simp] theorem clearResult_result (s : State) : (clearResult s).result = none := rfl
@[simp] theorem clearResult_payload (s : State) : (clearResult s).payload = s.payload := rfl
@[simp] theorem clearResult_dest (s : State) : (clearResult s).dest = s.dest := rfl
@[simp] theorem clearResult_localBuf (s : State) : (clearResult s).localBuf = s.localBuf := rfl
@[simp] theorem clearResult_commands (s : State) : (clearResult s).commands = s.commands := rfl
@[simp] theorem clearResult_answers (s : State) : (clearResult s).answers = s.answers := rfl
@[simp] theorem clearResult_mem (s : State) : (clearResult s).mem = s.mem := rfl
@[simp] theorem clearResult_trace (s : State) : (clearResult s).trace = s.trace := rfl
@[simp] theorem clearResult_draws (s : State) : (clearResult s).draws = s.draws := rfl

/-! ### busBegin -/

@[simp] theorem busBegin_cfg (s : State) : (busBegin s).cfg = s.cfg := rfl
@[simp] theorem busBegin_phase (s : State) : (busBegin s).phase = s.phase := rfl
@[simp] theorem busBegin_sel (s : State) : (busBegin s).sel = s.sel := rfl
@[simp] theorem busBegin_latches (s : State) : (busBegin s).latches = s.latches := rfl
@[simp] theorem busBegin_result (s : State) : (busBegin s).result = s.result := rfl
@[simp] theorem busBegin_payload (s : State) : (busBegin s).payload = s.payload := rfl
@[simp] theorem busBegin_dest (s : State) : (busBegin s).dest = s.dest := rfl
@[simp] theorem busBegin_localBuf (s : State) : (busBegin s).localBuf = s.localBuf := rfl
@[simp] theorem busBegin_commands (s : State) : (busBegin s).commands = s.commands := rfl
@[simp] theorem busBegin_answers (s : State) : (busBegin s).answers = s.answers := rfl
@[simp] theorem busBegin_mem (s : State) : (busBegin s).mem = s.mem := rfl
@[simp] theorem busBegin_trace (s : State) : (busBegin s).trace = s.trace ++ [.busBegin s.cfg.busCfg] := rfl
@[simp] theorem busBegin_draws (s : State) : (busBegin s).draws = s.draws := rfl

/-! ### busSelect -/

@[simp] theorem busSelect_cfg (s : State) : (busSelect s).cfg = s.cfg := rfl
@[simp] theorem busSelect_phase (s : State) : (busSelect s).phase = s.phase := rfl
@[simp] theorem busSelect_sel (s : State) : (busSelect s).sel = .low := rfl
@[simp] theorem busSelect_latches (s : State) : (busSelect s).latches = s.latches := rfl
@[simp] theorem busSelect_result (s : State) : (busSelect s).result = s.result := rfl
@[simp] theorem busSelect_payload (s : State) : (busSelect s).payload = s.payload := rfl
@[simp] theorem busSelect_dest (s : State) : (busSelect s).dest = s.dest := rfl
@[simp] theorem busSelect_localBuf (s : State) : (busSelect s).localBuf = s.localBuf := rfl
@[simp] theorem busSelect_commands (s : State) : (busSelect s).commands = s.commands := rfl
@[simp] theorem busSelect_answers (s : State) : (busSelect s).answers = s.answers := rfl
@[simp] theorem busSelect_mem (s : State) : (busSelect s).mem = s.mem := rfl
@[simp] theorem busSelect_trace (s : State) : (busSelect s).trace = s.trace ++ [.selLow] := rfl
@[simp] theorem busSelect_draws (s : State) : (busSelect s).draws = s.draws := rfl

/-! ### busDeselect -/

@[simp] theorem busDeselect_cfg (s : State) : (busDeselect s).cfg = s.cfg := rfl
@[simp] theorem busDeselect_phase (s : State) : (busDeselect s).phase = s.phase := rfl
@[simp] theorem busDeselect_sel (s : State) : (busDeselect s).sel = .high := rfl
@[simp] theorem busDeselect_latches (s : State) : (busDeselect s).latches = s.latches := rfl
@[simp] theorem busDeselect_result (s : State) : (busDeselect s).result = s.result := rfl
@[simp] theorem busDeselect_payload (s : State) : (busDeselect s).payload = s.payload := rfl
@[simp] theorem busDeselect_dest (s : State) : (busDeselect s).dest = s.dest := rfl
@[simp] theorem busDeselect_localBuf (s : State) : (busDeselect s).localBuf = s.localBuf := rfl
@[simp] theorem busDeselect_commands (s : State) : (busDeselect s).commands = s.commands := rfl
@[simp] theorem busDeselect_answers (s : State) : (busDeselect s).answers = s.answers := rfl
@[simp] theorem busDeselect_mem (s : State) : (busDeselect s).mem = s.mem := rfl
@[simp] theorem busDeselect_trace (s : State) : (busDeselect s).trace = s.trace ++ [.selHigh] := rfl
@[simp] theorem busDeselect_draws (s : State) : (busDeselect s).draws = s.draws := rfl

/-! ### busEnd -/

@[simp] theorem busEnd_cfg (s : State) : (busEnd s).cfg = s.cfg := rfl
@[simp] theorem busEnd_phase (s : State) : (busEnd s).phase = s.phase := rfl
@[simp] theorem busEnd_sel (s : State) : (busEnd s).sel = s.sel := rfl
@[simp] theorem busEnd_latches (s : State) : (busEnd s).latches = s.latches := rfl
@[simp] theorem busEnd_result (s : State) : (busEnd s).result = s.result := rfl
@[simp] theorem busEnd_payload (s : State) : (busEnd s).payload = s.payload := rfl
@[simp] theorem busEnd_dest (s : State) : (busEnd s).dest = s.dest := rfl
@[simp] theorem busEnd_localBuf (s : State) : (busEnd s).localBuf = s.localBuf := rfl
@[simp] theorem busEnd_commands (s : State) : (busEnd s).commands = s.commands := rfl
@[simp] theorem busEnd_answers (s : State) : (busEnd s).answers = s.answers := rfl
@[simp] theorem busEnd_mem (s : State) : (busEnd s).mem = s.mem := rfl
@[simp] theorem busEnd_trace (s : State) : (busEnd s).trace = s.trace ++ [.busEnd] := rfl
@[simp] theorem busEnd_draws (s : State) : (busEnd s).draws = s.draws := rfl

/-! ### transferOk -/

@[simp] theorem transferOk_cfg (out ins : List Byte) (rest : List BusAnswer) (s : State) : (transferOk out ins rest s).cfg = s.cfg := rfl
@[simp] theorem transferOk_phase (out ins : List Byte) (rest : List BusAnswer) (s : State) : (transferOk out ins rest s).phase = s.phase := rfl
@[simp] theorem transferOk_sel (out ins : List Byte) (rest : List BusAnswer) (s : State) : (transferOk out ins rest s).sel = s.sel := rfl
@[simp] theorem transferOk_latches (out ins : List Byte) (rest : List BusAnswer) (s : State) : (transferOk out ins rest s).latches = s.latches := rfl
@[simp] theorem transferOk_result (out ins : List Byte) (rest : List BusAnswer) (s : State) : (transferOk out ins rest s).result = s.result := rfl
@[simp] theorem transferOk_payload (out ins : List Byte) (rest : List BusAnswer) (s : State) : (transferOk out ins rest s).payload = s.payload := rfl
@[simp] theorem transferOk_dest (out ins : List Byte) (rest : List BusAnswer) (s : State) : (transferOk out ins rest s).dest = s.dest := rfl
@[simp] theorem transferOk_localBuf (out ins : List Byte) (rest : List BusAnswer) (s : State) : (transferOk out ins rest s).localBuf = s.localBuf := rfl
@[simp] theorem transferOk_commands (out ins : List Byte) (rest : List BusAnswer) (s : State) : (transferOk out ins rest s).commands = s.commands := rfl
@[simp] theorem transferOk_answers (out ins : List Byte) (rest : List BusAnswer) (s : State) : (transferOk out ins rest s).answers = rest := rfl
@[simp] theorem transferOk_mem (out ins : List Byte) (rest : List BusAnswer) (s : State) : (transferOk out ins rest s).mem = s.mem := rfl
@[simp] theorem transferOk_trace (out ins : List Byte) (rest : List BusAnswer) (s : State) : (transferOk out ins rest s).trace = s.trace ++ [.transfer out (out.zip ins) true] := rfl
@[simp] theorem transferOk_draws (out ins : List Byte) (rest : List BusAnswer) (s : State) : (transferOk out ins rest s).draws = s.draws + 1 := rfl

/-! ### transferFailed -/

@[simp] theorem transferFailed_cfg (out ins : List Byte) (rest : List BusAnswer) (s : State) : (transferFailed out ins rest s).cfg = s.cfg := rfl
@[simp] theorem transferFailed_phase (out ins : List Byte) (rest : List BusAnswer) (s : State) : (transferFailed out ins rest s).phase = s.phase := rfl
@[simp] theorem transferFailed_sel (out ins : List Byte) (rest : List BusAnswer) (s : State) : (transferFailed out ins rest s).sel = s.sel := rfl
@[simp] theorem transferFailed_latches (out ins : List Byte) (rest : List BusAnswer) (s : State) : (transferFailed out ins rest s).latches = s.latches := rfl
@[simp] theorem transferFailed_result (out ins : List Byte) (rest : List BusAnswer) (s : State) : (transferFailed out ins rest s).result = s.result := rfl
@[simp] theorem transferFailed_payload (out ins : List Byte) (rest : List BusAnswer) (s : State) : (transferFailed out ins rest s).payload = s.payload := rfl
@[simp] theorem transferFailed_dest (out ins : List Byte) (rest : List BusAnswer) (s : State) : (transferFailed out ins rest s).dest = s.dest := rfl
@[simp] theorem transferFailed_localBuf (out ins : List Byte) (rest : List BusAnswer) (s : State) : (transferFailed out ins rest s).localBuf = s.localBuf := rfl
@[simp] theorem transferFailed_commands (out ins : List Byte) (rest : List BusAnswer) (s : State) : (transferFailed out ins rest s).commands = s.commands := rfl
@[simp] theorem transferFailed_answers (out ins : List Byte) (rest : List BusAnswer) (s : State) : (transferFailed out ins rest s).answers = rest := rfl
@[simp] theorem transferFailed_mem (out ins : List Byte) (rest : List BusAnswer) (s : State) : (transferFailed out ins rest s).mem = s.mem := rfl
@[simp] theorem transferFailed_trace (out ins : List Byte) (rest : List BusAnswer) (s : State) : (transferFailed out ins rest s).trace = s.trace ++ [.transfer out (out.zip ins) false] := rfl
@[simp] theorem transferFailed_draws (out ins : List Byte) (rest : List BusAnswer) (s : State) : (transferFailed out ins rest s).draws = s.draws := rfl

/-! ### release -/

@[simp] theorem release_cfg (s : State) : (release s).cfg = s.cfg := rfl
@[simp] theorem release_phase (s : State) : (release s).phase = .idle := rfl
@[simp] theorem release_sel (s : State) : (release s).sel = .high := rfl
@[simp] theorem release_latches (s : State) : (release s).latches = s.latches := rfl
@[simp] theorem release_result (s : State) : (release s).result = s.result := rfl
@[simp] theorem release_payload (s : State) : (release s).payload = s.payload := rfl
@[simp] theorem release_dest (s : State) : (release s).dest = s.dest := rfl
@[simp] theorem release_localBuf (s : State) : (release s).localBuf = s.localBuf := rfl
@[simp] theorem release_commands (s : State) : (release s).commands = s.commands := rfl
@[simp] theorem release_answers (s : State) : (release s).answers = s.answers := rfl
@[simp] theorem release_mem (s : State) : (release s).mem = s.mem := rfl
@[simp] theorem release_trace (s : State) : (release s).trace = s.trace ++ [.selHigh] ++ [.busEnd] := rfl
@[simp] theorem release_draws (s : State) : (release s).draws = s.draws := rfl

/-! ### endCall -/

@[simp] theorem endCall_cfg (s : State) : (endCall s).cfg = s.cfg := rfl
@[simp] theorem endCall_phase (s : State) : (endCall s).phase = s.phase := rfl
@[simp] theorem endCall_sel (s : State) : (endCall s).sel = s.sel := rfl
@[simp] theorem endCall_latches (s : State) : (endCall s).latches = freeLatches s.draws := rfl
@[simp] theorem endCall_result (s : State) : (endCall s).result = s.result := rfl
@[simp] theorem endCall_payload (s : State) : (endCall s).payload = [] := rfl
@[simp] theorem endCall_dest (s : State) : (endCall s).dest = .none := rfl
@[simp] theorem endCall_localBuf (s : State) : (endCall s).localBuf = [] := rfl
@[simp] theorem endCall_commands (s : State) : (endCall s).commands = s.commands := rfl
@[simp] theorem endCall_answers (s : State) : (endCall s).answers = s.answers := rfl
@[simp] theorem endCall_mem (s : State) : (endCall s).mem = s.mem := rfl
@[simp] theorem endCall_trace (s : State) : (endCall s).trace = s.trace := rfl
@[simp] theorem endCall_draws (s : State) : (endCall s).draws = s.draws + 1 := rfl

/-! ### latchHeader -/

@[simp] theorem latchHeader_cfg (s : State) : (latchHeader s).cfg = s.cfg := rfl
@[simp] theorem latchHeader_phase (s : State) : (latchHeader s).phase = s.phase := rfl
@[simp] theorem latchHeader_sel (s : State) : (latchHeader s).sel = s.sel := rfl
@[simp] theorem latchHeader_result (s : State) : (latchHeader s).result = s.result := rfl
@[simp] theorem latchHeader_payload (s : State) : (latchHeader s).payload = s.payload := rfl
@[simp] theorem latchHeader_dest (s : State) : (latchHeader s).dest = s.dest := rfl
@[simp] theorem latchHeader_localBuf (s : State) : (latchHeader s).localBuf = s.localBuf := rfl
@[simp] theorem latchHeader_commands (s : State) : (latchHeader s).commands = s.commands := rfl
@[simp] theorem latchHeader_answers (s : State) : (latchHeader s).answers = s.answers := rfl
@[simp] theorem latchHeader_mem (s : State) : (latchHeader s).mem = s.mem := rfl
@[simp] theorem latchHeader_trace (s : State) : (latchHeader s).trace = s.trace := rfl
@[simp] theorem latchHeader_draws (s : State) : (latchHeader s).draws = s.draws := rfl

/-! ### latchOperands -/

@[simp] theorem latchOperands_cfg (r : Request) (s : State) : (latchOperands r s).cfg = s.cfg := rfl
@[simp] theorem latchOperands_phase (r : Request) (s : State) : (latchOperands r s).phase = s.phase := rfl
@[simp] theorem latchOperands_sel (r : Request) (s : State) : (latchOperands r s).sel = s.sel := rfl
@[simp] theorem latchOperands_result (r : Request) (s : State) : (latchOperands r s).result = s.result := rfl
@[simp] theorem latchOperands_payload (r : Request) (s : State) : (latchOperands r s).payload = r.payload := rfl
@[simp] theorem latchOperands_dest (r : Request) (s : State) : (latchOperands r s).dest = r.dest := rfl
@[simp] theorem latchOperands_localBuf (r : Request) (s : State) : (latchOperands r s).localBuf = [] := rfl
@[simp] theorem latchOperands_commands (r : Request) (s : State) : (latchOperands r s).commands = s.commands := rfl
@[simp] theorem latchOperands_answers (r : Request) (s : State) : (latchOperands r s).answers = s.answers := rfl
@[simp] theorem latchOperands_mem (r : Request) (s : State) : (latchOperands r s).mem = s.mem := rfl
@[simp] theorem latchOperands_trace (r : Request) (s : State) : (latchOperands r s).trace = s.trace := rfl
@[simp] theorem latchOperands_draws (r : Request) (s : State) : (latchOperands r s).draws = s.draws := rfl

/-! ### selectDevice -/

@[simp] theorem selectDevice_cfg (s : State) : (selectDevice s).cfg = s.cfg := rfl
@[simp] theorem selectDevice_phase (s : State) : (selectDevice s).phase = .selected := rfl
@[simp] theorem selectDevice_sel (s : State) : (selectDevice s).sel = .low := rfl
@[simp] theorem selectDevice_latches (s : State) : (selectDevice s).latches = s.latches := rfl
@[simp] theorem selectDevice_result (s : State) : (selectDevice s).result = s.result := rfl
@[simp] theorem selectDevice_payload (s : State) : (selectDevice s).payload = s.payload := rfl
@[simp] theorem selectDevice_dest (s : State) : (selectDevice s).dest = s.dest := rfl
@[simp] theorem selectDevice_localBuf (s : State) : (selectDevice s).localBuf = s.localBuf := rfl
@[simp] theorem selectDevice_commands (s : State) : (selectDevice s).commands = s.commands := rfl
@[simp] theorem selectDevice_answers (s : State) : (selectDevice s).answers = s.answers := rfl
@[simp] theorem selectDevice_mem (s : State) : (selectDevice s).mem = s.mem := rfl
@[simp] theorem selectDevice_trace (s : State) : (selectDevice s).trace = s.trace ++ [.busBegin s.cfg.busCfg] ++ [.selLow] := rfl
@[simp] theorem selectDevice_draws (s : State) : (selectDevice s).draws = s.draws := rfl

/-! ### payloadDone -/

@[simp] theorem payloadDone_cfg (s : State) : (payloadDone s).cfg = s.cfg := rfl
@[simp] theorem payloadDone_phase (s : State) : (payloadDone s).phase = .payloadTransferred := rfl
@[simp] theorem payloadDone_sel (s : State) : (payloadDone s).sel = s.sel := rfl
@[simp] theorem payloadDone_latches (s : State) : (payloadDone s).latches = s.latches := rfl
@[simp] theorem payloadDone_result (s : State) : (payloadDone s).result = some (.ok .none) := rfl
@[simp] theorem payloadDone_payload (s : State) : (payloadDone s).payload = s.payload := rfl
@[simp] theorem payloadDone_dest (s : State) : (payloadDone s).dest = s.dest := rfl
@[simp] theorem payloadDone_localBuf (s : State) : (payloadDone s).localBuf = s.localBuf := rfl
@[simp] theorem payloadDone_commands (s : State) : (payloadDone s).commands = s.commands := rfl
@[simp] theorem payloadDone_answers (s : State) : (payloadDone s).answers = s.answers := rfl
@[simp] theorem payloadDone_mem (s : State) : (payloadDone s).mem = s.mem := rfl
@[simp] theorem payloadDone_trace (s : State) : (payloadDone s).trace = s.trace := rfl
@[simp] theorem payloadDone_draws (s : State) : (payloadDone s).draws = s.draws := rfl

/-! ### supply -/

@[simp] theorem supply_cfg (a : BusAnswer) (s : State) : (supply a s).cfg = s.cfg := rfl
@[simp] theorem supply_phase (a : BusAnswer) (s : State) : (supply a s).phase = s.phase := rfl
@[simp] theorem supply_sel (a : BusAnswer) (s : State) : (supply a s).sel = s.sel := rfl
@[simp] theorem supply_latches (a : BusAnswer) (s : State) : (supply a s).latches = s.latches := rfl
@[simp] theorem supply_result (a : BusAnswer) (s : State) : (supply a s).result = s.result := rfl
@[simp] theorem supply_payload (a : BusAnswer) (s : State) : (supply a s).payload = s.payload := rfl
@[simp] theorem supply_dest (a : BusAnswer) (s : State) : (supply a s).dest = s.dest := rfl
@[simp] theorem supply_localBuf (a : BusAnswer) (s : State) : (supply a s).localBuf = s.localBuf := rfl
@[simp] theorem supply_commands (a : BusAnswer) (s : State) : (supply a s).commands = s.commands := rfl
@[simp] theorem supply_answers (a : BusAnswer) (s : State) : (supply a s).answers = s.answers ++ [a] := rfl
@[simp] theorem supply_mem (a : BusAnswer) (s : State) : (supply a s).mem = s.mem := rfl
@[simp] theorem supply_trace (a : BusAnswer) (s : State) : (supply a s).trace = s.trace := rfl
@[simp] theorem supply_draws (a : BusAnswer) (s : State) : (supply a s).draws = s.draws := rfl

/-! ### The latches an exchange sets (R15) -/

@[simp] theorem latchOperands_kind (r : Request) (s : State) : (latchOperands r s).latches.kind = r.kind := rfl
@[simp] theorem latchOperands_reg (r : Request) (s : State) : (latchOperands r s).latches.reg = r.reg := rfl
@[simp] theorem latchOperands_sub (r : Request) (s : State) : (latchOperands r s).latches.sub = r.sub := rfl
@[simp] theorem latchOperands_len (r : Request) (s : State) : (latchOperands r s).latches.len = r.payload.length := rfl
@[simp] theorem latchHeader_kind (s : State) : (latchHeader s).latches.kind = s.latches.kind := rfl
@[simp] theorem latchHeader_reg (s : State) : (latchHeader s).latches.reg = s.latches.reg := rfl
@[simp] theorem latchHeader_sub (s : State) : (latchHeader s).latches.sub = s.latches.sub := rfl
@[simp] theorem latchHeader_len (s : State) : (latchHeader s).latches.len = s.latches.len := rfl
@[simp] theorem latchHeader_amask (s : State) : (latchHeader s).latches.amask = s.latches.amask := rfl
@[simp] theorem latchHeader_omask (s : State) : (latchHeader s).latches.omask = s.latches.omask := rfl

/-- HDR and HLEN hold the header of KIND, REG and SUB (R15, step 3 of R97). -/
@[simp] theorem latchHeader_header (s : State) :
    ((latchHeader s).latches.hdr, (latchHeader s).latches.hlen) =
      headerOf s.cfg.tags s.latches.kind s.latches.reg s.latches.sub := rfl

/-! ### headerDone -/

@[simp] theorem headerDone_cfg (s : State) : (headerDone s).cfg = s.cfg := rfl
@[simp] theorem headerDone_phase (s : State) : (headerDone s).phase = .headerSent := rfl
@[simp] theorem headerDone_sel (s : State) : (headerDone s).sel = s.sel := rfl
@[simp] theorem headerDone_latches (s : State) : (headerDone s).latches = s.latches := rfl
@[simp] theorem headerDone_result (s : State) : (headerDone s).result = s.result := rfl
@[simp] theorem headerDone_payload (s : State) : (headerDone s).payload = s.payload := rfl
@[simp] theorem headerDone_dest (s : State) : (headerDone s).dest = s.dest := rfl
@[simp] theorem headerDone_localBuf (s : State) : (headerDone s).localBuf = s.localBuf := rfl
@[simp] theorem headerDone_commands (s : State) : (headerDone s).commands = s.commands := rfl
@[simp] theorem headerDone_answers (s : State) : (headerDone s).answers = s.answers := rfl
@[simp] theorem headerDone_mem (s : State) : (headerDone s).mem = s.mem := rfl
@[simp] theorem headerDone_trace (s : State) : (headerDone s).trace = s.trace := rfl
@[simp] theorem headerDone_draws (s : State) : (headerDone s).draws = s.draws := rfl

/-! ### openExchange -/

@[simp] theorem openExchange_cfg (r : Request) (s : State) : (openExchange r s).cfg = s.cfg := rfl
@[simp] theorem openExchange_phase (r : Request) (s : State) : (openExchange r s).phase = .selected := rfl
@[simp] theorem openExchange_sel (r : Request) (s : State) : (openExchange r s).sel = .low := rfl
@[simp] theorem openExchange_result (r : Request) (s : State) : (openExchange r s).result = none := rfl
@[simp] theorem openExchange_payload (r : Request) (s : State) : (openExchange r s).payload = r.payload := rfl
@[simp] theorem openExchange_dest (r : Request) (s : State) : (openExchange r s).dest = r.dest := rfl
@[simp] theorem openExchange_localBuf (r : Request) (s : State) : (openExchange r s).localBuf = [] := rfl
@[simp] theorem openExchange_commands (r : Request) (s : State) : (openExchange r s).commands = s.commands := rfl
@[simp] theorem openExchange_answers (r : Request) (s : State) : (openExchange r s).answers = s.answers := rfl
@[simp] theorem openExchange_mem (r : Request) (s : State) : (openExchange r s).mem = s.mem := rfl
@[simp] theorem openExchange_trace (r : Request) (s : State) : (openExchange r s).trace = s.trace ++ [.busBegin s.cfg.busCfg] ++ [.selLow] := rfl
@[simp] theorem openExchange_draws (r : Request) (s : State) : (openExchange r s).draws = s.draws := rfl
@[simp] theorem openExchange_kind (r : Request) (s : State) : (openExchange r s).latches.kind = r.kind := rfl
@[simp] theorem openExchange_reg (r : Request) (s : State) : (openExchange r s).latches.reg = r.reg := rfl
@[simp] theorem openExchange_sub (r : Request) (s : State) : (openExchange r s).latches.sub = r.sub := rfl
@[simp] theorem openExchange_len (r : Request) (s : State) : (openExchange r s).latches.len = r.payload.length := rfl

/-- The header an exchange sends is that of its kind and its raw register bytes (R81, R98). -/
@[simp] theorem openExchange_header (r : Request) (s : State) :
    ((openExchange r s).latches.hdr, (openExchange r s).latches.hlen) = headerOf s.cfg.tags r.kind r.reg r.sub := rfl

theorem headerOut_openExchange (r : Request) (s : State) :
    headerOut (openExchange r s) = sentHeader s.cfg r.kind r.reg r.sub := rfl

/-- AMASK of a masked write is its and-mask (R105 to R107). -/
theorem latchOperands_amask_some (r : Request) (s : State) (a o : MaskWord) (h : r.masks = some (a, o)) :
    (latchOperands r s).latches.amask = a := by simp [latchOperands, h]

/-- OMASK of a masked write is its or-mask (R105 to R107). -/
theorem latchOperands_omask_some (r : Request) (s : State) (a o : MaskWord) (h : r.masks = some (a, o)) :
    (latchOperands r s).latches.omask = o := by simp [latchOperands, h]

end Sys2Proof.Machine
end

