-- ==== Sys2Proof/Laws/Ops.lean ====
section
/-! SUPPORT. What each shared operation can do, said once: acceptance, transfers, the steps of an exchange, the fetch. -/

namespace Sys2Proof.Machine

/-! ### Acceptance -/

theorem refusalNow_of_ready {s : State} (h : s.Ready) : refusalNow s = none := by
  simp [refusalNow, h.legal, h.idle]

theorem refusalNow_eq_none {s : State} (h : refusalNow s = none) : s.cfg.legal = true ∧ s.phase = .idle := by
  unfold refusalNow at h
  split at h
  · simp at h
  · split at h
    · simp at h
    · simp_all

/-- A ready state accepts. -/
theorem whenAccepted_of_ready {s : State} (h : s.Ready) (e : Host.Outcome State Fault Refusal) :
    whenAccepted s e = e := by
  simp [whenAccepted, refusalNow_of_ready h]

/-- Whatever an operation answers next, it was accepted and that is its effect. -/
theorem whenAccepted_next {s t : State} {e : Host.Outcome State Fault Refusal} (h : whenAccepted s e = .next t) :
    s.cfg.legal = true ∧ s.phase = .idle ∧ e = .next t := by
  unfold whenAccepted at h
  split at h
  · cases h
  · rename_i hn
    exact ⟨(refusalNow_eq_none hn).1, (refusalNow_eq_none hn).2, h⟩

/-- An illegal configuration refuses every operation (D28). -/
theorem whenAccepted_illegal {s : State} (h : s.cfg.legal = false) (e : Host.Outcome State Fault Refusal) :
    whenAccepted s e = .refused .illegalConfiguration := by
  simp [whenAccepted, refusalNow, h]

/-- While PHASE is not Idle every operation is refused (R19). -/
theorem whenAccepted_busy {s : State} (hl : s.cfg.legal = true) (h : s.phase ≠ .idle)
    (e : Host.Outcome State Fault Refusal) : whenAccepted s e = .refused .busy := by
  simp [whenAccepted, refusalNow, hl, h]

theorem exchange_of_ready {s : State} (h : s.Ready) (r : Request) : exchange r s = .next (beginExchange r s) :=
  whenAccepted_of_ready h _

theorem exchange_next {s t : State} {r : Request} (h : exchange r s = .next t) :
    s.cfg.legal = true ∧ s.phase = .idle ∧ t = beginExchange r s := by
  obtain ⟨h1, h2, h3⟩ := whenAccepted_next h
  exact ⟨h1, h2, by injection h3 with h3; exact h3.symm⟩

/-! ### Received bytes and free bytes -/

/-- One byte is received for each byte sent (R22). -/
@[simp] theorem receivedBytes_length (d p : Nat) (out answer : List Byte) :
    (receivedBytes d p out answer).length = out.length := by
  induction out generalizing p answer with
  | nil => rfl
  | cons o out ih => cases answer <;> simp [receivedBytes, ih]

/-- An answer of the right length is what is received. -/
theorem receivedBytes_of_length {d p : Nat} {out answer : List Byte} (h : answer.length = out.length) :
    receivedBytes d p out answer = answer := by
  induction out generalizing p answer with
  | nil => cases answer <;> simp_all [receivedBytes]
  | cons o out ih =>
    cases answer with
    | nil => simp at h
    | cons b answer => simp only [receivedBytes]; rw [ih (by simpa using h)]

@[simp] theorem receivedBytes_nil (d p : Nat) (answer : List Byte) : receivedBytes d p [] answer = [] := by
  cases answer <;> rfl

@[simp] theorem freeBytes_length (d p n : Nat) : (freeBytes d p n).length = n := by
  induction n generalizing p with
  | zero => rfl
  | succ n ih => simp [freeBytes, ih]

/-! ### Bytes of a value -/

@[simp] theorem bytesLe_length (v k : Nat) : (bytesLe v k).length = k := by
  induction k generalizing v with
  | zero => rfl
  | succ k ih => simp [bytesLe, ih]

@[simp] theorem bytesOf_length (o : ByteOrder) (v k : Nat) : (bytesOf o v k).length = k := by
  cases o <;> simp [bytesOf, bytesBe]

@[simp] theorem maskPayload_length (o : ByteOrder) (k a b : Nat) : (maskPayload o k a b).length = 2 * k := by
  simp [maskPayload]; omega

theorem sentHeader_length (c : Config) (k : Kind) (reg sub : Byte) :
    (sentHeader c k reg sub).length = k.headerBytes := by
  cases k <;> simp [sentHeader, wireHeader, headerOf, Kind.format]

/-- The loop of R73 computes the little-endian scalar of R36. -/
theorem scalarOfLe_eq (bytes : List Byte) : scalarOfLe bytes = littleEndian bytes := by
  induction bytes with
  | nil => rfl
  | cons b rest ih =>
    simp only [scalarOfLe, List.foldr_cons, littleEndian] at ih ⊢
    rw [ih, Nat.shiftLeft_eq]
    omega

theorem bitOf_eq (v p : Nat) : bitOf v p = v / 2 ^ p % 2 := by
  simp [bitOf, Nat.shiftRight_eq_div_pow, Nat.and_one_is_mod]

theorem bitsOf_eq (v low high : Nat) : bitsOf v low high = v / 2 ^ low % 2 ^ (high - low + 1) := by
  rw [bitsOf, Nat.shiftRight_eq_div_pow, Nat.and_two_pow_sub_one_eq_mod]

theorem rangeValid_iff {w low high : Nat} : rangeValid w low high = true ↔ low ≤ high ∧ high < w := by
  simp [rangeValid]

/-! ### Ending with an error -/

theorem raiseError_of_high {s : State} (e : ErrorKind) (h : s.sel ≠ .low) : raiseError e s = deliver (.err e) s := by
  simp [raiseError, h]

theorem raiseError_of_low {s : State} (e : ErrorKind) (h : s.sel = .low) :
    raiseError e s = deliver (.err e) (release s) := by
  simp [raiseError, h]

/-- A failed read leaves everything but its destination as it was (R111). -/
theorem spoilDest_frame (s : State) :
    (spoilDest s).cfg = s.cfg ∧ (spoilDest s).phase = s.phase ∧ (spoilDest s).sel = s.sel ∧
      (spoilDest s).commands = s.commands ∧ (spoilDest s).answers = s.answers ∧ (spoilDest s).trace = s.trace ∧
      (spoilDest s).latches = s.latches ∧ (spoilDest s).result = s.result ∧ (spoilDest s).payload = s.payload ∧
      (spoilDest s).dest = s.dest ∧ (spoilDest s).localBuf = s.localBuf := by
  unfold spoilDest
  split <;> simp

/-- What a failed read leaves in the caller's memory (R111). -/
theorem spoilDest_mem (s : State) :
    (spoilDest s).mem =
      match s.dest with
      | .none => s.mem
      | .deviceId => s.mem
      | .caller out => writeBytes s.mem out (freeBytes s.draws 0 s.payload.length) := by
  unfold spoilDest
  split <;> simp_all

/-- The failure path with the line low (R110): deselected, Idle, the error returned, nothing of the call left. -/
theorem abortCall_spec (s : State) (h : s.sel = .low) :
    (abortCall s).cfg = s.cfg ∧ (abortCall s).phase = .idle ∧ (abortCall s).sel = .high ∧
      (abortCall s).commands = s.commands ∧ (abortCall s).answers = s.answers ∧
      (abortCall s).trace = s.trace ++ [.selHigh] ++ [.busEnd] ∧
      (abortCall s).result = some (.err .busTransferFailure) ∧ (abortCall s).mem = (spoilDest s).mem ∧
      (abortCall s).payload = [] ∧ (abortCall s).dest = .none ∧ (abortCall s).localBuf = [] := by
  obtain ⟨h1, h2, h3, h4, h5, h6, -⟩ := spoilDest_frame s
  have hl : (spoilDest s).sel = .low := h3.trans h
  simp [abortCall, raiseError_of_low _ hl, h1, h4, h5, h6]

/-! ### Reset -/

/-- What a reset leaves (R30): the block's own state as after power-up, everything outside it as it was. -/
theorem afterReset_spec (s : State) :
    (afterReset s).phase = .idle ∧ (afterReset s).sel = .high ∧ (afterReset s).result = none ∧
      (afterReset s).payload = [] ∧ (afterReset s).dest = .none ∧ (afterReset s).localBuf = [] ∧
      (afterReset s).cfg = s.cfg ∧ (afterReset s).mem = s.mem ∧ (afterReset s).commands = s.commands ∧
      (afterReset s).answers = s.answers ∧ (afterReset s).trace = s.trace := by
  simp [afterReset]

theorem resetBlock_of_idle {s : State} (h : s.phase = .idle) : resetBlock s = .next (afterReset s) := by
  simp [resetBlock, h]

theorem resetBlock_of_busy {s : State} (h : s.phase ≠ .idle) : resetBlock s = .refused .resetWhileBusy := by
  simp [resetBlock, h]

/-! ### The steps of an exchange -/

theorem storeReceived_frame (ins : List Byte) (s : State) :
    (storeReceived ins s).cfg = s.cfg ∧ (storeReceived ins s).phase = s.phase ∧ (storeReceived ins s).sel = s.sel ∧
      (storeReceived ins s).commands = s.commands ∧ (storeReceived ins s).answers = s.answers ∧
      (storeReceived ins s).trace = s.trace ∧ (storeReceived ins s).latches = s.latches ∧
      (storeReceived ins s).result = s.result ∧ (storeReceived ins s).payload = s.payload ∧
      (storeReceived ins s).dest = s.dest ∧ (storeReceived ins s).draws = s.draws := by
  unfold storeReceived
  split <;> simp

theorem storeReceived_mem (ins : List Byte) (s : State) :
    (storeReceived ins s).mem =
      match s.dest with
      | .none => s.mem
      | .caller out => writeBytes s.mem out ins
      | .deviceId => s.mem := by
  unfold storeReceived
  split <;> simp_all

theorem storeReceived_localBuf (ins : List Byte) (s : State) :
    (storeReceived ins s).localBuf =
      match s.dest with
      | .none => s.localBuf
      | .caller _ => s.localBuf
      | .deviceId => ins := by
  unfold storeReceived
  split <;> simp_all

/-- While PHASE is Idle nothing advances. -/
@[simp] theorem advance_idle {s : State} (h : s.phase = .idle) : advance s = s := by simp [advance, h]

theorem advance_selected {s : State} (h : s.phase = .selected) : advance s = headerStep s := by simp [advance, h]

theorem advance_headerSent {s : State} (h : s.phase = .headerSent) : advance s = payloadStep s := by simp [advance, h]

theorem advance_payloadTransferred {s : State} (h : s.phase = .payloadTransferred) : advance s = closeStep s := by
  simp [advance, h]

theorem headerStep_waits {s : State} (h : s.answers = []) : headerStep s = s := by simp [headerStep, h]

theorem headerStep_ok {s : State} {a : List Byte} {rest : List BusAnswer} (h : s.answers = .ok a :: rest) :
    headerStep s =
      headerDone (transferOk (headerOut s) (receivedBytes s.draws 0 (headerOut s) a) rest s) := by
  simp [headerStep, h]

theorem headerStep_fail {s : State} {g : List Byte} {rest : List BusAnswer} (h : s.answers = .fail g :: rest) :
    headerStep s = abortCall (transferFailed (headerOut s) g rest s) := by simp [headerStep, h]

theorem payloadStep_empty {s : State} (h : s.latches.len = 0) : payloadStep s = payloadDone s := by
  simp [payloadStep, h]

theorem payloadStep_waits {s : State} (hn : s.latches.len ≠ 0) (h : s.answers = []) : payloadStep s = s := by
  simp [payloadStep, hn, h]

theorem payloadStep_ok {s : State} {b : List Byte} {rest : List BusAnswer} (hn : s.latches.len ≠ 0)
    (h : s.answers = .ok b :: rest) :
    payloadStep s =
      payloadDone (storeReceived (receivedBytes s.draws 0 s.payload b)
        (transferOk s.payload (receivedBytes s.draws 0 s.payload b) rest s)) := by
  simp [payloadStep, hn, h]

theorem payloadStep_fail {s : State} {g : List Byte} {rest : List BusAnswer} (hn : s.latches.len ≠ 0)
    (h : s.answers = .fail g :: rest) : payloadStep s = abortCall (transferFailed s.payload g rest s) := by
  simp [payloadStep, hn, h]

/-- Steps 8 and 9 (R97). -/
theorem closeStep_spec (s : State) :
    (closeStep s).cfg = s.cfg ∧ (closeStep s).phase = .idle ∧ (closeStep s).sel = .high ∧
      (closeStep s).commands = s.commands ∧ (closeStep s).answers = s.answers ∧ (closeStep s).mem = s.mem ∧
      (closeStep s).trace = s.trace ++ [.selHigh] ++ [.busEnd] ∧
      (closeStep s).result = some (.ok (exchangeValue s)) ∧
      (closeStep s).payload = [] ∧ (closeStep s).dest = .none ∧ (closeStep s).localBuf = [] := by
  simp [closeStep]

/-- An exchange that has ended is not advanced. -/
theorem runExchange_of_advance_idle {s : State} (h : (advance s).phase = .idle) : runExchange s = advance s := by
  simp [runExchange, h]

theorem beginExchange_short {r : Request} {s : State} (h : r.tooShort = true) :
    beginExchange r s = endCall (raiseError .bufferTooShort (latchOperands r (clearResult s))) := by
  simp [beginExchange, h]

theorem beginExchange_open {r : Request} {s : State} (h : r.tooShort = false) :
    beginExchange r s = runExchange (openExchange r s) := by simp [beginExchange, h]

/-! ### The wire trace -/

@[simp] theorem wireTrace_nil : wireTrace [] = [] := rfl

@[simp] theorem wireTrace_append (x y : List Event) : wireTrace (x ++ y) = wireTrace x ++ wireTrace y := by
  simp [wireTrace]

@[simp] theorem wireTrace_cons (e : Event) (x : List Event) : wireTrace (e :: x) = e.onWire ++ wireTrace x := by
  simp [wireTrace]

@[simp] theorem onWire_busBegin (b : BusCfg) : (Event.busBegin b).onWire = [] := rfl
@[simp] theorem onWire_selLow : Event.selLow.onWire = [.selLow] := rfl
@[simp] theorem onWire_transfer (out : List Byte) (w : List (Byte × Byte)) (ok : Bool) :
    (Event.transfer out w ok).onWire = wireBytes w := rfl
@[simp] theorem onWire_selHigh : Event.selHigh.onWire = [.selHigh] := rfl
@[simp] theorem onWire_busEnd : Event.busEnd.onWire = [] := rfl

@[simp] theorem wireBytes_append (x y : List (Byte × Byte)) : wireBytes (x ++ y) = wireBytes x ++ wireBytes y := by
  simp [wireBytes]

/-- A finished bracket, as events (R116). -/
theorem bracket_eq (p : List (Byte × Byte)) : bracket p = .selLow :: (wireBytes p ++ [.selHigh]) := rfl

/-- Framing is checked piece by piece. -/
theorem scan_append (l : Line) (x y : List Event) :
    Line.scan l (x ++ y) = (Line.scan l x).bind fun l' => Line.scan l' y := by
  induction x generalizing l with
  | nil => rfl
  | cons e x ih =>
    simp only [List.cons_append, Line.scan]
    cases Line.after l e with
    | none => rfl
    | some l' => simp [ih]

/-! ### The fetch and the step -/

/-- An unbounded command interface carries every count (D20). -/
@[simp] theorem carries_of_unbounded {c : Config} (n : Nat) (h : c.nMax = none) : c.carries n = true := by
  simp [Config.carries, h]

/-- A bounded one carries the counts up to its bound. -/
theorem carries_of_bounded {c : Config} {m : Nat} (n : Nat) (h : c.nMax = some m) : c.carries n = decide (n ≤ m) := by
  simp [Config.carries, h]

/-- A count of zero is always carried. -/
@[simp] theorem carries_zero (c : Config) : c.carries 0 = true := by
  unfold Config.carries
  split <;> simp

/-- An operation whose operands fit is run by the step. -/
theorem step_of_wellFormed {s : State} {c : Command} {rest : List Command} {i : Instr} (hp : s.phase = .idle)
    (hc : s.commands = c :: rest) (hd : decodeCommand c = .ok i) (hw : i.wellFormed s.cfg = true) :
    step s = exec i { s with commands := rest } := by
  simp [step, fetch, hp, hc, hd, hw]

/-- An operation with an operand that does not fit is refused by the step, under the operand's own name. -/
theorem step_of_not_wellFormed {s : State} {c : Command} {rest : List Command} {i : Instr} (hp : s.phase = .idle)
    (hc : s.commands = c :: rest) (hd : decodeCommand c = .ok i) (hw : i.wellFormed s.cfg = false) :
    step s = .refused (refusalOfOperands i) := by
  simp [step, fetch, hp, hc, hd, hw]

/-- What a step can do, said once. -/
theorem step_next {s t : State} (h : step s = .next t) :
    (s.phase ≠ .idle ∧ t = runExchange s) ∨
    (s.phase = .idle ∧ s.commands = [] ∧ t = s) ∨
    (∃ c rest i, s.phase = .idle ∧ s.commands = c :: rest ∧ decodeCommand c = .ok i ∧ i.wellFormed s.cfg = true ∧
      exec i { s with commands := rest } = .next t) := by
  unfold step fetch at h
  by_cases hp : s.phase = .idle
  · rw [if_neg (by simp [hp])] at h
    cases hc : s.commands with
    | nil =>
      simp only [hc] at h
      injection h with h
      exact .inr (.inl ⟨hp, rfl, h.symm⟩)
    | cons c rest =>
      simp only [hc] at h
      cases hd : decodeCommand c with
      | error e => simp [hd] at h
      | ok i =>
        cases hw : i.wellFormed s.cfg with
        | false => simp [hd, hw] at h
        | true =>
          simp only [hd, hw, if_true] at h
          exact .inr (.inr ⟨c, rest, i, hp, rfl, hd, hw, h⟩)
  · rw [if_pos hp] at h
    injection h with h
    exact .inl ⟨hp, h.symm⟩

end Sys2Proof.Machine
end

