-- ==== Sys2Proof/Laws/Exchange.lean ====
section
/-! SUPPORT. EXCHANGE (42_protocol.md R97) said once for every answer of the environment: what the whole exchange leaves,
case by case, for any request. The operations' own statements cite these. -/

namespace Sys2Proof.Machine

/-- The state after step 5 of a request whose header transfer was answered `ok`. -/
def afterHeader (r : Request) (a : List Byte) (rest : List BusAnswer) (s : State) : State :=
  headerDone (transferOk (headerOut (openExchange r s))
    (receivedBytes s.draws 0 (headerOut (openExchange r s)) a) rest (openExchange r s))

/-- The state after steps 6 and 7 of a request whose payload transfer was answered `ok`. -/
def afterPayload (r : Request) (a b : List Byte) (rest : List BusAnswer) (s : State) : State :=
  payloadDone (storeReceived (receivedBytes (s.draws + 1) 0 r.payload b)
    (transferOk r.payload (receivedBytes (s.draws + 1) 0 r.payload b) rest (afterHeader r a (.ok b :: rest) s)))

/-- No answer: the exchange waits with the line low (R119). -/
theorem runExchange_waits (r : Request) (s : State) (h : s.answers = []) :
    runExchange (openExchange r s) = openExchange r s := by
  have h1 : advance (openExchange r s) = openExchange r s := by
    rw [advance_selected rfl]; exact headerStep_waits h
  simp only [runExchange, h1]

/-- The header transfer fails (R110). -/
theorem runExchange_headerFails (r : Request) (s : State) (g : List Byte) (rest : List BusAnswer)
    (h : s.answers = .fail g :: rest) :
    runExchange (openExchange r s) =
      abortCall (transferFailed (headerOut (openExchange r s)) g rest (openExchange r s)) := by
  have h1 : advance (openExchange r s) =
      abortCall (transferFailed (headerOut (openExchange r s)) g rest (openExchange r s)) := by
    rw [advance_selected rfl]; exact headerStep_fail h
  rw [runExchange_of_advance_idle, h1]
  rw [h1]
  exact (abortCall_spec _ rfl).2.1

theorem advance_open_ok (r : Request) (s : State) (a : List Byte) (rest : List BusAnswer)
    (h : s.answers = .ok a :: rest) : advance (openExchange r s) = afterHeader r a rest s := by
  rw [advance_selected rfl]; exact headerStep_ok h

/-- The header is answered and there is no payload (R115). -/
theorem runExchange_headerOnly (r : Request) (s : State) (a : List Byte) (rest : List BusAnswer)
    (hp : r.payload = []) (h : s.answers = .ok a :: rest) :
    runExchange (openExchange r s) = closeStep (payloadDone (afterHeader r a rest s)) := by
  have h2 : advance (afterHeader r a rest s) = payloadDone (afterHeader r a rest s) := by
    rw [advance_headerSent rfl]; exact payloadStep_empty (by show r.payload.length = 0; simp [hp])
  simp only [runExchange, advance_open_ok r s a rest h, h2]
  exact advance_payloadTransferred rfl

/-- The header is answered and the payload is not, yet. -/
theorem runExchange_payloadWaits (r : Request) (s : State) (a : List Byte)
    (hp : r.payload ≠ []) (h : s.answers = [.ok a]) :
    runExchange (openExchange r s) = afterHeader r a [] s := by
  have hl : (afterHeader r a [] s).latches.len ≠ 0 := by show r.payload.length ≠ 0; simpa using hp
  have h2 : advance (afterHeader r a [] s) = afterHeader r a [] s := by
    rw [advance_headerSent rfl]; exact payloadStep_waits hl rfl
  simp only [runExchange, advance_open_ok r s a [] h, h2]

/-- The payload transfer fails (R110). -/
theorem runExchange_payloadFails (r : Request) (s : State) (a g : List Byte) (rest : List BusAnswer)
    (hp : r.payload ≠ []) (h : s.answers = .ok a :: .fail g :: rest) :
    runExchange (openExchange r s) =
      abortCall (transferFailed r.payload g rest (afterHeader r a (.fail g :: rest) s)) := by
  have hl : (afterHeader r a (.fail g :: rest) s).latches.len ≠ 0 := by
    show r.payload.length ≠ 0; simpa using hp
  have h2 : advance (afterHeader r a (.fail g :: rest) s) =
      abortCall (transferFailed r.payload g rest (afterHeader r a (.fail g :: rest) s)) := by
    rw [advance_headerSent rfl]; exact payloadStep_fail hl rfl
  simp only [runExchange, advance_open_ok r s a _ h, h2]
  exact advance_idle (abortCall_spec _ rfl).2.1

/-- Both transfers are answered (R97). -/
theorem runExchange_completes (r : Request) (s : State) (a b : List Byte) (rest : List BusAnswer)
    (hp : r.payload ≠ []) (h : s.answers = .ok a :: .ok b :: rest) :
    runExchange (openExchange r s) = closeStep (afterPayload r a b rest s) := by
  have hl : (afterHeader r a (.ok b :: rest) s).latches.len ≠ 0 := by
    show r.payload.length ≠ 0; simpa using hp
  have h2 : advance (afterHeader r a (.ok b :: rest) s) = afterPayload r a b rest s := by
    rw [advance_headerSent rfl]; exact payloadStep_ok hl rfl
  simp only [runExchange, advance_open_ok r s a _ h, h2]
  exact advance_payloadTransferred rfl

/-- What is left of the caller's memory after a failure, by the request's destination (R111). -/
theorem abortCall_mem (s : State) (h : s.sel = .low) :
    (abortCall s).mem =
      match s.dest with
      | .none => s.mem
      | .deviceId => s.mem
      | .caller out => writeBytes s.mem out (freeBytes s.draws 0 s.payload.length) :=
  (abortCall_spec s h).2.2.2.2.2.2.2.1.trans (spoilDest_mem s)

/-- What an exchange can do, said once: it waits for the header or for the payload, it fails at either, or it completes
without or with a payload. -/
theorem runExchange_cases (r : Request) (s : State) :
    (s.answers = [] ∧ runExchange (openExchange r s) = openExchange r s) ∨
    (∃ g rest, s.answers = .fail g :: rest ∧ runExchange (openExchange r s) =
      abortCall (transferFailed (headerOut (openExchange r s)) g rest (openExchange r s))) ∨
    (∃ a rest, r.payload = [] ∧ s.answers = .ok a :: rest ∧
      runExchange (openExchange r s) = closeStep (payloadDone (afterHeader r a rest s))) ∨
    (∃ a, r.payload ≠ [] ∧ s.answers = [.ok a] ∧ runExchange (openExchange r s) = afterHeader r a [] s) ∨
    (∃ a g rest, r.payload ≠ [] ∧ s.answers = .ok a :: .fail g :: rest ∧ runExchange (openExchange r s) =
      abortCall (transferFailed r.payload g rest (afterHeader r a (.fail g :: rest) s))) ∨
    (∃ a b rest, r.payload ≠ [] ∧ s.answers = .ok a :: .ok b :: rest ∧
      runExchange (openExchange r s) = closeStep (afterPayload r a b rest s)) := by
  match h : s.answers with
  | [] => exact .inl ⟨rfl, runExchange_waits r s h⟩
  | .fail g :: rest => exact .inr (.inl ⟨g, rest, rfl, runExchange_headerFails r s g rest h⟩)
  | .ok a :: rest =>
    by_cases hp : r.payload = []
    · exact .inr (.inr (.inl ⟨a, rest, hp, rfl, runExchange_headerOnly r s a rest hp h⟩))
    · match rest, h with
      | [], h => exact .inr (.inr (.inr (.inl ⟨a, hp, rfl, runExchange_payloadWaits r s a hp h⟩)))
      | .fail g :: rest, h =>
        exact .inr (.inr (.inr (.inr (.inl ⟨a, g, rest, hp, rfl, runExchange_payloadFails r s a g rest hp h⟩))))
      | .ok b :: rest, h =>
        exact .inr (.inr (.inr (.inr (.inr ⟨a, b, rest, hp, rfl, runExchange_completes r s a b rest hp h⟩))))

/-! ### Which operations are exchanges -/

/-- The request of an operation that reaches the bus (R97, R121, R122). -/
def requestOf (s : State) : Instr → Option Request
  | .fastCommand cmd => some (commandRequest cmd)
  | .shortRead reg out n => some (readRequest s.cfg .shortRead reg 0#8 out n)
  | .shortWrite reg buffer n => some (writeRequest s.mem .shortWrite reg 0#8 buffer n)
  | .fullRead reg sub out n => some (readRequest s.cfg .fullRead reg sub out n)
  | .fullWrite reg sub buffer n => some (writeRequest s.mem .fullWrite reg sub buffer n)
  | .maskedWrite1 reg sub a o => some (maskRequest s.cfg .maskedWrite1 reg sub (a.setWidth 32) (o.setWidth 32))
  | .maskedWrite2 reg sub a o => some (maskRequest s.cfg .maskedWrite2 reg sub (a.setWidth 32) (o.setWidth 32))
  | .maskedWrite4 reg sub a o => some (maskRequest s.cfg .maskedWrite4 reg sub a o)
  | .getDeviceId => some (deviceIdRequest s.cfg)
  | .writeTxBuffer buffer n => some (txBufRequest s.cfg s.mem buffer n)
  | .bitAt _ _ => none
  | .bitsInRange _ _ _ => none
  | .bitsInBuffer _ _ _ => none
  | .encodeHeader _ _ _ => none
  | .writeTxbOffset => none
  | .readTxbOffset => none

/-- An operation that reaches the bus is the exchange of its request, and nothing else. -/
theorem exec_eq_exchange {i : Instr} {s : State} {r : Request} (h : requestOf s i = some r) :
    exec i s = exchange r s := by
  cases i <;> simp only [requestOf, Option.some.injEq, reduceCtorEq] at h <;> subst h <;> rfl

/-- A codec operation or ENCODE_HEADER that is accepted with the select line high sets RESULT, and nothing else. -/
theorem exec_local {i : Instr} {s t : State} (hr : requestOf s i = none) (hs : s.sel = .high) (h : exec i s = .next t) :
    ∃ r, t = deliver r s := by
  cases i <;> simp only [requestOf, reduceCtorEq] at hr
  case bitAt =>
    obtain ⟨-, -, h⟩ := whenAccepted_next h
    split at h
    · cases h
    · injection h with h; exact ⟨_, h.symm⟩
  case bitsInRange =>
    obtain ⟨-, -, h⟩ := whenAccepted_next h
    split at h
    · injection h with h; exact ⟨_, h.symm⟩
    · cases h
  case bitsInBuffer =>
    obtain ⟨-, -, h⟩ := whenAccepted_next h
    split at h
    · split at h <;> injection h with h
      · exact ⟨_, by rw [← h, raiseError_of_high _ (by simp [hs])]⟩
      · exact ⟨_, h.symm⟩
    · cases h
  case encodeHeader =>
    obtain ⟨-, -, h⟩ := whenAccepted_next h
    split at h <;> injection h with h
    · exact ⟨_, by rw [← h, raiseError_of_high _ (by simp [hs])]⟩
    · exact ⟨_, h.symm⟩
  case writeTxbOffset => cases h
  case readTxbOffset => cases h

end Sys2Proof.Machine
end

