-- ==== Sys2Proof/Laws/PerInstr.lean ====
section
/-! SUPPORT. What holds of every operation as syntax, one lemma a constructor (LAWS.json). -/

namespace Sys2Proof.Laws

/-- The command that presents an operation carries that operation's name (10_state.md R19, 30_encoding.md R67). -/
def CommandName.Statement (i : Instr) : Prop := (encodeCommand i).op = i.op

namespace CommandName

theorem fastCommand (cmd : Byte) : Statement (.fastCommand cmd) := rfl
theorem shortRead (reg : Byte) (out : Buf) (n : Nat) : Statement (.shortRead reg out n) := rfl
theorem shortWrite (reg : Byte) (buffer : Buf) (n : Nat) : Statement (.shortWrite reg buffer n) := rfl
theorem fullRead (reg sub : Byte) (out : Buf) (n : Nat) : Statement (.fullRead reg sub out n) := rfl
theorem fullWrite (reg sub : Byte) (buffer : Buf) (n : Nat) : Statement (.fullWrite reg sub buffer n) := rfl
theorem maskedWrite1 (reg sub : Byte) (a o : BitVec 8) : Statement (.maskedWrite1 reg sub a o) := rfl
theorem maskedWrite2 (reg sub : Byte) (a o : BitVec 16) : Statement (.maskedWrite2 reg sub a o) := rfl
theorem maskedWrite4 (reg sub : Byte) (a o : BitVec 32) : Statement (.maskedWrite4 reg sub a o) := rfl
theorem bitAt (value position : Nat) : Statement (.bitAt value position) := rfl
theorem bitsInRange (value low high : Nat) : Statement (.bitsInRange value low high) := rfl
theorem bitsInBuffer (buffer : Buf) (low high : Nat) : Statement (.bitsInBuffer buffer low high) := rfl
theorem encodeHeader (kindRaw : Nat) (reg sub : Byte) : Statement (.encodeHeader kindRaw reg sub) := rfl
theorem getDeviceId : Statement .getDeviceId := rfl
theorem writeTxBuffer (buffer : Buf) (n : Nat) : Statement (.writeTxBuffer buffer n) := rfl
theorem writeTxbOffset : Statement .writeTxbOffset := rfl
theorem readTxbOffset : Statement .readTxbOffset := rfl

end CommandName

end Sys2Proof.Laws
end

