-- ==== Sys2Proof/Tests/Slice0.lean ====
section
/-! SUPPORT. Tests of the model, each of one operation, with the expected results of spec/95_test_vectors.md (tables V1 to V8,
properties S2, S3, S6) or of the encodings of spec/30_encoding.md written out bit by bit; and, for every obligation that
has hypotheses, a witness that a concrete state and operands meet them (theorems `witness_...`). -/

namespace Sys2Proof.Tests

open Sys2Proof Sys2Proof.Machine

/-! ### Helpers -/

/-- The state after reset, with a script of answers (`ScriptBus`) and the bytes of the caller's buffers. -/
def scripted (answers : List BusAnswer) (mem : Memory) : State := { State.reset with answers := answers, mem := mem }

/-- The state after reset. -/
def base : State := scripted [] []

/-- The byte `buf[i]` of buffer 1, as a cell of memory. -/
def cell (i : Nat) (v : Byte) : Host.Cell := (bufAddr ⟨1, 0⟩ i, v)

/-- Whether an outcome is a next state of which `p` holds. -/
def next? (o : Host.Outcome State Fault Refusal) (p : State → Bool) : Bool :=
  match o with
  | .next t => p t
  | .fault _ => false
  | .refused _ => false

/-- Whether an outcome is this refusal. -/
def refuses? (o : Host.Outcome State Fault Refusal) (r : Refusal) : Bool :=
  match o with
  | .next _ => false
  | .fault _ => false
  | .refused r' => r' == r

/-- The result of an operation, and whether the block is ready again. -/
def ends? (o : Host.Outcome State Fault Refusal) (r : Result) : Bool :=
  next? o fun t => t.result == some r && t.phase == .idle && t.sel == .high

/-- The wire trace of an operation, where only the bytes sent are compared. -/
def sends? (o : Host.Outcome State Fault Refusal) (bytes : List Byte) : Bool :=
  next? o fun t => sentBytes (wireTrace t.trace) == bytes

/-! ### WellFormed: each check refuses an ill-formed term -/

theorem test_wellFormed_bitAt : (Instr.bitAt 0x100000000 0).wellFormed Config.standard = false := by decide
theorem test_wellFormed_bitsInRange : (Instr.bitsInRange 0x100000000 0 1).wellFormed Config.standard = false := by decide
theorem test_wellFormed_counts :
    (Instr.shortRead 0 ⟨1, 0⟩ 2001).wellFormed { Config.standard with nMax := some 2000 } = false ∧
      (Instr.shortWrite 0 ⟨1, 0⟩ 2001).wellFormed { Config.standard with nMax := some 2000 } = false ∧
      (Instr.fullRead 0 0 ⟨1, 0⟩ 2001).wellFormed { Config.standard with nMax := some 2000 } = false ∧
      (Instr.fullWrite 0 0 ⟨1, 0⟩ 2001).wellFormed { Config.standard with nMax := some 2000 } = false ∧
      (Instr.writeTxBuffer ⟨1, 0⟩ 2001).wellFormed { Config.standard with nMax := some 2000 } = false := by decide
theorem test_wellFormed_largest : (Instr.bitAt 0xFFFFFFFF 0).wellFormed Config.standard = true := by decide

/-! ### Decoding: words written out from the encodings of R60 (8-bit: tag bits 7, 6, 0 and register bits 5:1; 16-bit: tag
bits 15, 14, 1, 0, register bits 13:9, sub-register bits 8:2), and the raw commands of the operations without one -/

theorem test_decode_fastCommand : decodeTableWord 8 0b10_10011_1 = some (.fastCommand 0x13#8) := by decide
theorem test_decode_shortRead : decodeTableWord 8 0b00_11111_0 = some (.shortRead 0x1F#8 ⟨0, 0⟩ 0) := by decide
theorem test_decode_shortWrite : decodeTableWord 8 0b10_00101_0 = some (.shortWrite 0x05#8 ⟨0, 0⟩ 0) := by decide
theorem test_decode_fullRead : decodeTableWord 16 0b01_00001_0000000_00 = some (.fullRead 0x01#8 0x00#8 ⟨0, 0⟩ 0) := by
  decide
theorem test_decode_fullWrite : decodeTableWord 16 0b11_00011_1111111_00 = some (.fullWrite 0x03#8 0x7F#8 ⟨0, 0⟩ 0) := by
  decide
theorem test_decode_maskedWrite1 :
    decodeTableWord 16 0b11_10001_0001000_01 = some (.maskedWrite1 0x11#8 0x08#8 0x00#8 0x00#8) := by decide
theorem test_decode_maskedWrite2 :
    decodeTableWord 16 0b11_00000_0100100_10 = some (.maskedWrite2 0x00#8 0x24#8 0x0000#16 0x0000#16) := by decide
theorem test_decode_maskedWrite4 :
    decodeTableWord 16 0b11_01111_0110000_11 = some (.maskedWrite4 0x0F#8 0x30#8 0x00000000#32 0x00000000#32) := by decide
theorem test_decode_unused_8 : decodeTableWord 8 0b00_00000_1 = none := by decide
theorem test_decode_unused_16 : decodeTableWord 16 0b01_00000_0000000_01 = none := by decide
theorem test_decode_too_long : decodeTableWord 16 0b10_00000_1_00000000 = none := by decide
theorem test_decode_bitAt : decodeCommand { op := .bitAt, value := 0x80, position := 7 } = .ok (.bitAt 0x80 7) := by decide
theorem test_decode_bitsInRange :
    decodeCommand { op := .bitsInRange, value := 0x300, low := 8, high := 9 } = .ok (.bitsInRange 0x300 8 9) := by decide
theorem test_decode_bitsInBuffer :
    decodeCommand { op := .bitsInBuffer, buf := ⟨1, 3⟩, low := 4, high := 19 } = .ok (.bitsInBuffer ⟨1, 3⟩ 4 19) := by decide
theorem test_decode_encodeHeader :
    decodeCommand { op := .encodeHeader, kindRaw := 9, reg := 0x11#8, sub := 0x08#8 } =
      .ok (.encodeHeader 9 0x11#8 0x08#8) := by decide
theorem test_decode_getDeviceId : decodeCommand { op := .getDeviceId } = .ok .getDeviceId := by decide
theorem test_decode_writeTxBuffer :
    decodeCommand { op := .writeTxBuffer, buf := ⟨1, 9⟩, n := 2000 } = .ok (.writeTxBuffer ⟨1, 9⟩ 2000) := by decide
theorem test_decode_writeTxbOffset : decodeCommand { op := .writeTxbOffset } = .ok .writeTxbOffset := by decide
theorem test_decode_readTxbOffset : decodeCommand { op := .readTxbOffset } = .ok .readTxbOffset := by decide

/-- The last row of V7: a mask that does not fit 8 bits. -/
theorem test_decode_maskTooWide :
    decodeCommand { op := .maskedWrite1, andMask := 0x1FF } = .error .maskTooWide := by decide

/-- R68: the source's second name of SHORT_WRITE. -/
theorem test_name_alias : Op.ofName "short_addressed_write" = some .shortWrite := by decide

/-- S3: the register fields come back from the header. -/
theorem test_header_decodes :
    decodeHeader TagTable.standard .h16 0xC092#16 = some (.h16 .maskedWrite2 0x00#5 0x24#7) := by decide

/-! ### The codec (V1, V2, V3) -/

theorem test_bitAt_top : ends? (exec (.bitAt 0x7FFFFFFF 31) base) (.ok (.scalar 0)) = true := by decide
theorem test_bitAt_refused : refuses? (exec (.bitAt 1 32) base) .bitPositionOutOfRange = true := by decide
theorem test_bitsInRange_middle : ends? (exec (.bitsInRange 0xDEADBEEF 16 25) base) (.ok (.scalar 0x2AD)) = true := by decide
theorem test_bitsInRange_whole : ends? (exec (.bitsInRange 0xDEADBEEF 0 31) base) (.ok (.scalar 0xDEADBEEF)) = true := by
  decide

/-- The caller's buffer 1 holding `{12, 34, 56, 78}`. -/
def digits : Memory := [cell 0 0x12, cell 1 0x34, cell 2 0x56, cell 3 0x78]

theorem test_digits_wf : digits.wf = true := by decide
theorem test_bitsInBuffer_field :
    ends? (exec (.bitsInBuffer ⟨1, 4⟩ 4 19) (scripted [] digits)) (.ok (.scalar 0x6341)) = true := by decide
theorem test_bitsInBuffer_short :
    ends? (exec (.bitsInBuffer ⟨1, 2⟩ 4 19) (scripted [] digits)) (.err .bufferTooShort) = true := by decide

/-! ### The encoder (V4, S2) -/

theorem test_encodeHeader_fullRead : ends? (exec (.encodeHeader 3 0x06 0x10) base) (.ok (.header 0x4C40 2)) = true := by
  decide
theorem test_encodeHeader_unknown :
    ends? (exec (.encodeHeader 8 0x00 0x00) base) (.err .invalidTransactionKind) = true := by decide

/-! ### The protocol (V6, V7) -/

/-- A script that answers a header of `h` bytes with zeros and a payload with `payload`. -/
def script (h : Nat) (payload : List Byte) : List BusAnswer := [.ok (List.replicate h 0), .ok payload]

theorem test_fastCommand_sends :
    sends? (exec (.fastCommand 0x13) (scripted [.ok [0]] [])) [0xA7] = true := by decide
theorem test_fastCommand_fails :
    ends? (exec (.fastCommand 0x01) (scripted [.fail []] [])) (.err .busTransferFailure) = true := by decide
theorem test_shortRead_fills :
    next? (exec (.shortRead 0x0A ⟨1, 3⟩ 3) (scripted (script 1 [0x11, 0x22, 0x33]) digits)) (fun t =>
      readBytes t.mem ⟨1, 4⟩ 4 == [0x11, 0x22, 0x33, 0x78] &&
        wireTrace t.trace == [.selLow, .byte 0x14 0, .byte 0 0x11, .byte 0 0x22, .byte 0 0x33, .selHigh]) = true := by decide
theorem test_shortRead_fails :
    next? (exec (.shortRead 0x0A ⟨1, 5⟩ 3) (scripted [.ok [0], .fail [0]] digits)) (fun t =>
      t.result == some (.err .busTransferFailure) && sentBytes (wireTrace t.trace) == [0x14, 0x00]) = true := by decide
theorem test_shortWrite_sends :
    sends? (exec (.shortWrite 0x25 ⟨1, 1⟩ 1) (scripted (script 1 [0]) [cell 0 0x7E])) [0x8A, 0x7E] = true := by decide
theorem test_shortWrite_short :
    ends? (exec (.shortWrite 0x0A ⟨1, 2⟩ 3) (scripted [] digits)) (.err .bufferTooShort) = true := by decide
theorem test_fullRead_fills :
    next? (exec (.fullRead 0x06 0x10 ⟨1, 2⟩ 2) (scripted (script 2 [0xAB, 0xCD]) [])) (fun t =>
      readBytes t.mem ⟨1, 2⟩ 2 == [0xAB, 0xCD] && sentBytes (wireTrace t.trace) == [0x4C, 0x40, 0, 0]) = true := by decide
theorem test_fullRead_short_before_fail :
    next? (exec (.fullRead 0x00 0x00 ⟨1, 3⟩ 4) (scripted [.fail []] [])) (fun t =>
      t.result == some (.err .bufferTooShort) && t.trace == []) = true := by decide
theorem test_fullWrite_sends :
    sends? (exec (.fullWrite 0x11 0x08 ⟨1, 3⟩ 3) (scripted (script 2 [0, 0, 0]) [cell 0 0xAA, cell 1 0xBB, cell 2 0xCC]))
      [0xE2, 0x20, 0xAA, 0xBB, 0xCC] = true := by decide
theorem test_fullWrite_empty :
    sends? (exec (.fullWrite 0x03 0x7F ⟨1, 0⟩ 0) (scripted [.ok [0, 0]] [])) [0xC7, 0xFC] = true := by decide
theorem test_maskedWrite1_sends :
    sends? (exec (.maskedWrite1 0x11 0x08 0xF0 0x05) (scripted (script 2 [0, 0]) [])) [0xE2, 0x21, 0xF0, 0x05] = true := by
  decide
theorem test_maskedWrite2_sends :
    sends? (exec (.maskedWrite2 0x00 0x24 0xFC00 0x0155) (scripted (script 2 [0, 0, 0, 0]) []))
      [0xC0, 0x92, 0x00, 0xFC, 0x55, 0x01] = true := by decide
theorem test_maskedWrite4_sends :
    sends? (exec (.maskedWrite4 0x0F 0x30 0xFFFF00FF 0x0000AB00) (scripted (script 2 [0, 0, 0, 0, 0, 0, 0, 0]) []))
      [0xDE, 0xC3, 0xFF, 0x00, 0xFF, 0xFF, 0x00, 0xAB, 0x00, 0x00] = true := by decide

/-- The RegChip column of V6: `1234` becomes `1155`. -/
theorem test_chip_masked : chipMaskedValue 0x1234#16 0xFC00#16 0x0155#16 = 0x1155#16 := by decide

/-- Program P2: EchoBus gives back the bytes last written. -/
theorem test_echo_round_trip :
    next? (exec (.shortWrite 0x0A ⟨1, 3⟩ 3) (scripted [] digits)) (fun t =>
      let served := echoServe ⟨[], none⟩ t
      next? (exec (.shortRead 0x0A ⟨2, 3⟩ 3) served.2) fun u =>
        readBytes (echoServe served.1 u).2.mem ⟨2, 3⟩ 3 == [0x12, 0x34, 0x56]) = true := by decide

/-- The RegChip column of V6, on the wire: `1234` at register 0, offset 24, becomes `1155`. -/
theorem test_chip_serves_masked_write :
    next? (exec (.maskedWrite2 0x00 0x24 0xFC00 0x0155) base) (fun t =>
      let served := chipServe ⟨writeBytesFrom [] (chipReg 0) 0x24 [0x34, 0x12], none⟩ t
      readBytesFrom served.1.mem (chipReg 0) 0x24 2 == [0x55, 0x11]) = true := by decide

/-! ### The compositions (V8, S6) -/

theorem test_getDeviceId_splits :
    ends? (exec .getDeviceId (scripted (script 2 [0xDE, 0xCA, 0x30, 0x03]) []))
      (.ok (.deviceId 0x0330 0xCA 0xD 0xE)) = true := by decide
theorem test_getDeviceId_fails :
    ends? (exec .getDeviceId (scripted [.ok [0, 0], .fail [0]] [])) (.err .busTransferFailure) = true := by decide

/-- A state with the illustrative values of G6: `TXBUF_MODE` as given, register 14, sub-register 00. -/
def txState (mode : TxBufMode) (answers : List BusAnswer) (mem : Memory) : State :=
  { scripted answers mem with
    cfg := { Config.standard with txBufMode := mode, txBufReg := 0x14#8, txBufSub := 0x00#8 } }

theorem test_writeTxBuffer_full :
    sends? (exec (.writeTxBuffer ⟨1, 2⟩ 2) (txState .full (script 2 [0, 0]) digits)) [0xE8, 0x00, 0x12, 0x34] = true := by
  decide

/-- V8: the check uses the clamped count, 1024. -/
theorem test_writeTxBuffer_clamps :
    (txBufRequest Config.standard [] ⟨1, 1024⟩ 2000).payload.length = 1024 ∧
      (exec (.writeTxBuffer ⟨1, 1000⟩ 2000) base |> ends? <| .err .bufferTooShort) = true := by
  refine ⟨?_, ?_⟩
  · unfold txBufRequest
    split <;> exact readBytes_length _ _ _
  · cases h : Config.openTxBufMode <;>
      simp [ends?, next?, exec, execWriteTxBuffer, exchange, whenAccepted, refusalNow, beginExchange, Request.tooShort, base,
        scripted, State.reset, txBufRequest, Config.standard, h, writeRequest, txCount, txBufMax, Config.legal, raiseError,
        endCall, deliver, latchOperands, clearResult, Config.carries, show TagTable.standard.legal = true by decide,
        show KindCodes.standard.legal = true by decide]

theorem test_writeTxbOffset_refused : refuses? (exec .writeTxbOffset base) .writeTxbOffsetUndescribed = true := by decide
theorem test_readTxbOffset_refused : refuses? (exec .readTxbOffset base) .readTxbOffsetUndescribed = true := by decide

/-! ### The step -/

/-- A word placed for the fetch is run by the next step: the header goes out and the line is low until it is answered. -/
theorem test_step_runs_word :
    next? (step (State.reset.withFetchWord 16 0x4C40)) (fun t =>
      t.phase == .selected && t.sel == .low && headerOut t == [0x4C, 0x40]) = true := by decide

/-- R30: caller buffers are untouched by reset. -/
theorem test_reset_keeps_buffers :
    next? (resetBlock (scripted [] digits)) (fun t =>
      readBytes t.mem ⟨1, 4⟩ 4 == [0x12, 0x34, 0x56, 0x78] && t.phase == .idle && t.sel == .high) = true := by decide

/-- R119: the operation that waited goes on when the answer has come. -/
theorem test_step_resumes :
    next? (exec (.fastCommand 0x01) base) (fun t =>
      next? (step (supply (.ok [0]) t)) fun u => u.result == some (.ok .none) && u.phase == .idle) = true := by decide

/-! ### Witnesses: for each obligation with hypotheses, a state and operands that meet them, clause by clause -/

theorem base_ready : base.Ready := ⟨by decide, rfl, rfl⟩

theorem scripted_ready (answers : List BusAnswer) (mem : Memory) : (scripted answers mem).Ready :=
  ⟨base_ready.legal, rfl, rfl⟩

theorem txState_ready (mode : TxBufMode) (answers : List BusAnswer) (mem : Memory) : (txState mode answers mem).Ready :=
  ⟨base_ready.legal, rfl, rfl⟩

/-- `base` with another configuration. -/
def configured (c : Config) (answers : List BusAnswer) : State := { scripted answers [] with cfg := c }

/-- `base` with these operations to be presented. -/
def presenting (commands : List Command) : State := { base with commands := commands }

theorem witness_BitAtReturnsTheBit : base.Ready ∧ 31 < base.cfg.scalarBits ∧ base.cfg.scalarBits ≤ 32 :=
  ⟨base_ready, by decide, by decide⟩

theorem witness_BitsInRangeExtractsTheField :
    base.Ready ∧ (0 ≤ 31 ∧ 31 < base.cfg.scalarBits) ∧ ¬ (0 ≤ 32 ∧ 32 < base.cfg.scalarBits) ∧
      ¬ (5 ≤ 4 ∧ 4 < base.cfg.scalarBits) := ⟨base_ready, by decide, by decide, by decide⟩

theorem witness_BitsInBufferAssemblesLittleEndian :
    base.Ready ∧ (0 ≤ 31 ∧ 31 < base.cfg.scalarBits) ∧ 31 / 8 + 1 ≤ (⟨1, 4⟩ : Buf).len ∧
      (⟨1, 3⟩ : Buf).len < 31 / 8 + 1 ∧ ¬ (9 ≤ 8 ∧ 8 < base.cfg.scalarBits) :=
  ⟨base_ready, by decide, by decide, by decide, by decide⟩

theorem witness_ExtractedBitsReconstructTheRange :
    base.Ready ∧ 0xFFFFFFFF < 2 ^ base.cfg.scalarBits ∧ 31 ≤ 31 ∧ 31 < base.cfg.scalarBits :=
  ⟨base_ready, by decide, by decide, by decide⟩

/-- Two memories that agree on the first byte of buffer 1 alone; and bit 31, the last one, of a buffer of four bytes. -/
theorem witness_BufferFieldDependsOnItsPrefix :
    (scripted [] digits).Ready ∧ (scripted [] [cell 0 0x12]).Ready ∧
      (scripted [] digits).cfg = (scripted [] [cell 0 0x12]).cfg ∧ 0 ≤ 7 ∧ 7 < (scripted [] digits).cfg.scalarBits ∧
      7 / 8 < (⟨1, 1⟩ : Buf).len ∧
      (∀ j, j ≤ 7 / 8 → readBuf digits ⟨1, 4⟩ j = readBuf [cell 0 0x12] ⟨1, 1⟩ j) ∧
      31 < (scripted [] digits).cfg.scalarBits ∧ 31 / 8 < (⟨1, 4⟩ : Buf).len := by
  refine ⟨scripted_ready _ _, scripted_ready _ _, rfl, by decide, by decide, by decide, ?_, by decide, by decide⟩
  intro j hj
  obtain rfl : j = 0 := by omega
  decide

theorem witness_LocalOperationsChangeResultAlone :
    (isCodec (.bitAt 1 0) = true ∧ base.sel = .high ∧ ∃ t, exec (.bitAt 1 0) base = .next t) ∧
      ((Instr.encodeHeader 8 0 0).op = .encodeHeader ∧ ∃ t, exec (.encodeHeader 8 0 0) base = .next t) :=
  ⟨⟨rfl, rfl, _, rfl⟩, rfl, _, rfl⟩

theorem witness_EncodeHeaderFollowsTheTable :
    base.Ready ∧ (KindCodes.standard.kind 2 = some .shortWrite ∧ Kind.shortWrite.format = .h8) ∧
      (KindCodes.standard.kind 3 = some .fullRead ∧ Kind.fullRead.format = .h16) ∧
      (KindCodes.standard.kind 7 = some .maskedWrite4 ∧ Kind.maskedWrite4.format = .h16) ∧ KindCodes.standard.kind 8 = none :=
  ⟨base_ready, ⟨rfl, rfl⟩, ⟨rfl, rfl⟩, ⟨rfl, rfl⟩, rfl⟩

theorem witness_KindCodesAreInTheDocumentsOrder : 8 ≤ 8 ∧ KindCodes.standard.legal = true := by decide

theorem witness_HeaderRoundTrip :
    TagTable.standard.legal = true ∧
      decodeHeader TagTable.standard .h8 0x00BE#16 = some (.h8 .shortWrite 0x1F#5) ∧
      decodeHeader TagTable.standard .h16 0xFFFF#16 = some (.h16 .maskedWrite4 0x1F#5 0x7F#7) := by decide

theorem witness_HeaderBytesOnTheWire :
    Kind.shortWrite.format = .h8 ∧ (Kind.fullRead.format = .h16 ∧ Config.standard.headerOrder = .highFirst) ∧
      ({ Config.standard with headerOrder := .lowFirst } : Config).headerOrder = .lowFirst := ⟨rfl, ⟨rfl, rfl⟩, rfl⟩

theorem witness_RegisterBytesAreTruncatedSilently :
    base.cfg.kindCodes.kind 2 = some .shortWrite ∧ Kind.shortWrite.format = .h8 := by decide

theorem witness_FullReadHeaderIsTheDocuments : 
    base.Ready ∧ base.cfg.tags.fullRead = 0x4000#16 ∧ base.cfg.kindCodes.kind 3 = some .fullRead :=
  ⟨base_ready, rfl, by decide⟩

theorem witness_ZeroIsALegitimateHeader :
    base.Ready ∧ base.cfg.tags = TagTable.standard ∧ base.cfg.kindCodes.kind 1 = some .shortRead ∧
      ∃ t, exec (.encodeHeader 1 0x20#8 0x7F#8) base = .next t ∧ t.result = some (.ok (.header 0x0000#16 1)) :=
  ⟨base_ready, rfl, by decide, _, rfl, by decide⟩

theorem witness_NeverEmittedPatterns :
    (0x3F#8).getLsbD 6 = false ∧ (0x80#8).getLsbD 6 = false ∧ (0x7FFF#16).getLsbD 14 = true ∧
      (0xC000#16).getLsbD 14 = true := by decide

/-- One command for each clause. -/
theorem witness_OperandsTooWideAreRefused :
    (presenting [{ op := .maskedWrite1, andMask := 256 }]).phase = .idle ∧
      (presenting [{ op := .maskedWrite1, andMask := 256 }]).commands = { op := .maskedWrite1, andMask := 256 } :: [] ∧
      2 ^ 8 ≤ ({ op := .maskedWrite1, andMask := 256 } : Command).andMask ∧
      2 ^ 16 ≤ ({ op := .maskedWrite2, orMask := 65536 } : Command).orMask ∧
      2 ^ 32 ≤ ({ op := .maskedWrite4, andMask := 4294967296 } : Command).andMask ∧
      2 ^ base.cfg.scalarBits ≤ ({ op := .bitAt, value := 4294967296 } : Command).value ∧
      2 ^ base.cfg.scalarBits ≤ ({ op := .bitsInRange, value := 4294967296 } : Command).value ∧
      ({ op := .maskedWrite1, andMask := 255 } : Command).andMask < 2 ^ 8 ∧
      ({ op := .maskedWrite2, andMask := 65535 } : Command).andMask < 2 ^ 16 ∧
      ({ op := .maskedWrite4, andMask := 4294967295 } : Command).andMask < 2 ^ 32 := by
  refine ⟨rfl, rfl, ?_⟩
  decide

/-- A count above, and a count at, the smallest bound D20 admits; and no bound. -/
theorem witness_CountsBeyondThePortAreRefused :
    ({ presenting [{ op := .shortRead, n := 2001 }] with cfg := { Config.standard with nMax := some 2000 } }.phase = .idle ∧
      { presenting [{ op := .shortRead, n := 2001 }] with cfg := { Config.standard with nMax := some 2000 } }.commands =
        { op := .shortRead, n := 2001 } :: []) ∧
      2000 < ({ op := .shortRead, n := 2001 } : Command).n ∧ ({ op := .writeTxBuffer, n := 2000 } : Command).n ≤ 2000 ∧
      base.cfg.nMax = none ∧ ({ Config.standard with nMax := some 2000 } : Config).legal = true := by
  refine ⟨⟨rfl, rfl⟩, ?_⟩
  decide

theorem witness_StepRunsThePresentedOperation :
    ((presenting [encodeCommand (.bitAt 0xFFFFFFFF 31)]).phase = .idle ∧
      decodeCommand (encodeCommand (.bitAt 0xFFFFFFFF 31)) = .ok (.bitAt 0xFFFFFFFF 31) ∧
      (Instr.bitAt 0xFFFFFFFF 31).wellFormed (presenting []).cfg = true) ∧
      (base.phase = .idle ∧ base.commands = []) ∧ { base with phase := .headerSent }.phase ≠ .idle := by
  refine ⟨⟨rfl, by decide, by decide⟩, ⟨rfl, rfl⟩, by decide⟩

theorem witness_FetchedWordRuns : decodeTableWord 8 0b10000011 = some (.fastCommand 0x01#8) := by decide

/-- What the clauses of ExchangeSpec ask of a state, in the form a script fulfils: `scriptOf` gives the state with a
list of answers. -/
def MeetsExchange (scriptOf : List BusAnswer → State) (hdr out a b : List Byte) : Prop :=
  (∀ answers, (scriptOf answers).Ready ∧ (scriptOf answers).mem.wf = true ∧ (scriptOf answers).answers = answers) ∧
    out ≠ [] ∧ a.length = hdr.length ∧ b.length = out.length

/-- The clause of an empty payload. -/
def MeetsHeaderOnly (scriptOf : List BusAnswer → State) (hdr out a : List Byte) : Prop :=
  (∀ answers, (scriptOf answers).Ready ∧ (scriptOf answers).mem.wf = true ∧ (scriptOf answers).answers = answers) ∧
    out = [] ∧ a.length = hdr.length

theorem scripted_meets (answers : List BusAnswer) :
    (scripted answers digits).Ready ∧ (scripted answers digits).mem.wf = true ∧
      (scripted answers digits).answers = answers := ⟨scripted_ready _ _, test_digits_wf, rfl⟩

theorem txState_meets (mode : TxBufMode) (answers : List BusAnswer) :
    (txState mode answers digits).Ready ∧ (txState mode answers digits).mem.wf = true ∧
      (txState mode answers digits).answers = answers := ⟨txState_ready _ _ _, test_digits_wf, rfl⟩

theorem configured_meets (c : Config) (h : c.legal = true) (answers : List BusAnswer) :
    (configured c answers).Ready ∧ (configured c answers).mem.wf = true ∧ (configured c answers).answers = answers :=
  ⟨⟨h, rfl, rfl⟩, rfl, rfl⟩

theorem witness_FastCommandSendsItsHeader :
    MeetsHeaderOnly (scripted · digits) (sentHeader Config.standard .fastCommand 0x1F#8 0#8) [] [0] :=
  ⟨scripted_meets, rfl, by decide⟩

theorem witness_ShortReadFillsTheBuffer :
    (3 ≤ (⟨1, 3⟩ : Buf).len ∧ MeetsExchange (scripted · digits) (sentHeader Config.standard .shortRead 0x1F#8 0#8)
        (List.replicate 3 Config.standard.readFill) [0] [0x11, 0x22, 0x33]) ∧
      (0 ≤ (⟨1, 0⟩ : Buf).len ∧ MeetsHeaderOnly (scripted · digits) (sentHeader Config.standard .shortRead 0x00#8 0#8)
        (List.replicate 0 Config.standard.readFill) [0]) ∧ (⟨1, 2⟩ : Buf).len < 3 :=
  ⟨⟨by decide, scripted_meets, by decide, by decide, by decide⟩, ⟨by decide, scripted_meets, rfl, by decide⟩, by decide⟩

theorem witness_ShortWriteSendsTheBuffer :
    (3 ≤ (⟨1, 3⟩ : Buf).len ∧ MeetsExchange (scripted · digits) (sentHeader Config.standard .shortWrite 0x1F#8 0#8)
        (readBytes digits ⟨1, 3⟩ 3) [0] [0, 0, 0]) ∧
      (0 ≤ (⟨1, 0⟩ : Buf).len ∧ MeetsHeaderOnly (scripted · digits) (sentHeader Config.standard .shortWrite 0x00#8 0#8)
        (readBytes digits ⟨1, 0⟩ 0) [0]) ∧ (⟨1, 2⟩ : Buf).len < 3 :=
  ⟨⟨by decide, scripted_meets, by decide, by decide, by decide⟩, ⟨by decide, scripted_meets, rfl, by decide⟩, by decide⟩

theorem witness_FullReadFillsTheBuffer :
    (3 ≤ (⟨1, 3⟩ : Buf).len ∧ MeetsExchange (scripted · digits) (sentHeader Config.standard .fullRead 0x1F#8 0x7F#8)
        (List.replicate 3 Config.standard.readFill) [0, 0] [0x11, 0x22, 0x33]) ∧
      (0 ≤ (⟨1, 0⟩ : Buf).len ∧ MeetsHeaderOnly (scripted · digits) (sentHeader Config.standard .fullRead 0x00#8 0x00#8)
        (List.replicate 0 Config.standard.readFill) [0, 0]) ∧ (⟨1, 2⟩ : Buf).len < 3 :=
  ⟨⟨by decide, scripted_meets, by decide, by decide, by decide⟩, ⟨by decide, scripted_meets, rfl, by decide⟩, by decide⟩

theorem witness_FullWriteSendsTheBuffer :
    (3 ≤ (⟨1, 3⟩ : Buf).len ∧ MeetsExchange (scripted · digits) (sentHeader Config.standard .fullWrite 0x1F#8 0x7F#8)
        (readBytes digits ⟨1, 3⟩ 3) [0, 0] [0, 0, 0]) ∧
      (0 ≤ (⟨1, 0⟩ : Buf).len ∧ MeetsHeaderOnly (scripted · digits) (sentHeader Config.standard .fullWrite 0x00#8 0x00#8)
        (readBytes digits ⟨1, 0⟩ 0) [0, 0]) ∧ (⟨1, 2⟩ : Buf).len < 3 :=
  ⟨⟨by decide, scripted_meets, by decide, by decide, by decide⟩, ⟨by decide, scripted_meets, rfl, by decide⟩, by decide⟩

theorem witness_MaskedWrite1SendsBothMasks :
    MeetsExchange (scripted · digits) (sentHeader Config.standard .maskedWrite1 0x1F#8 0x7F#8) [0xFF#8, 0x00#8] [0, 0]
      [0, 0] := ⟨scripted_meets, by decide, by decide, by decide⟩

/-- The defaults with the high byte of a mask first. -/
def highMasks : Config := { Config.standard with maskOrder := .highFirst }

theorem witness_MaskedWrite2SendsBothMasks :
    (Config.standard.maskOrder = .lowFirst ∧
        MeetsExchange (scripted · digits) (sentHeader Config.standard .maskedWrite2 0x00#8 0x24#8)
          [0x00#8, 0xFC#8, 0x55#8, 0x01#8] [0, 0] [0, 0, 0, 0]) ∧
      (highMasks.maskOrder = .highFirst ∧
        MeetsExchange (configured highMasks) (sentHeader highMasks .maskedWrite2 0x00#8 0x24#8)
          [0xFC#8, 0x00#8, 0x01#8, 0x55#8] [0, 0] [0, 0, 0, 0]) :=
  ⟨⟨rfl, scripted_meets, by decide, by decide, by decide⟩,
    rfl, configured_meets _ (by decide), by decide, by decide, by decide⟩

theorem witness_MaskedWrite4SendsBothMasks :
    (Config.standard.maskOrder = .lowFirst ∧
        MeetsExchange (scripted · digits) (sentHeader Config.standard .maskedWrite4 0x0F#8 0x30#8)
          [0xFF#8, 0x00#8, 0xFF#8, 0xFF#8, 0x00#8, 0xAB#8, 0x00#8, 0x00#8] [0, 0] [0, 0, 0, 0, 0, 0, 0, 0]) ∧
      (highMasks.maskOrder = .highFirst ∧
        MeetsExchange (configured highMasks) (sentHeader highMasks .maskedWrite4 0x0F#8 0x30#8)
          [0xFF#8, 0xFF#8, 0x00#8, 0xFF#8, 0x00#8, 0x00#8, 0xAB#8, 0x00#8] [0, 0] [0, 0, 0, 0, 0, 0, 0, 0]) :=
  ⟨⟨rfl, scripted_meets, by decide, by decide, by decide⟩,
    rfl, configured_meets _ (by decide), by decide, by decide, by decide⟩

theorem witness_DeviceIdIsReadAndSplit :
    MeetsExchange (scripted · digits)
      (sentHeader Config.standard .fullRead Config.standard.devIdReg Config.standard.devIdSub)
      (List.replicate 4 Config.standard.readFill) [0, 0] [0xDE, 0xCA, 0x30, 0x03] :=
  ⟨scripted_meets, by decide, by decide, by decide⟩

/-- Both write kinds, with the count 3, the clamped count of 2000, and one byte too few for it. -/
theorem witness_TxBufferWriteIsClamped :
    (min 3 1024 ≤ (⟨1, 3⟩ : Buf).len ∧ (txState .short [] digits).cfg.txBufMode = .short ∧
        MeetsExchange (txState .short · digits) (sentHeader (txState .short [] digits).cfg .shortWrite 0x14#8 0#8)
          (readBytes digits ⟨1, 3⟩ (min 3 1024)) [0] [0, 0, 0]) ∧
      (min 3 1024 ≤ (⟨1, 3⟩ : Buf).len ∧ (txState .full [] digits).cfg.txBufMode = .full ∧
        MeetsExchange (txState .full · digits) (sentHeader (txState .full [] digits).cfg .fullWrite 0x14#8 0x00#8)
          (readBytes digits ⟨1, 3⟩ (min 3 1024)) [0, 0] [0, 0, 0]) ∧
      min 2000 1024 ≤ (⟨1, 1024⟩ : Buf).len ∧ (⟨1, 1023⟩ : Buf).len < min 2000 1024 :=
  ⟨⟨by decide, rfl, txState_meets _, by decide, by decide, by decide⟩,
    ⟨by decide, rfl, txState_meets _, by decide, by decide, by decide⟩, by decide, by decide⟩

theorem witness_BufferIsCheckedBeforeTheBus :
    (base.Ready ∧ payloadBuffer (.shortWrite 0 ⟨1, 2⟩ 3) = some (⟨1, 2⟩, 3, true) ∧ (⟨1, 2⟩ : Buf).len < 3) ∧
      (payloadBuffer (.shortWrite 0 ⟨1, 3⟩ 3) = some (⟨1, 3⟩, 3, true) ∧ 3 ≤ (⟨1, 3⟩ : Buf).len ∧
        ∃ t, exec (.shortWrite 0 ⟨1, 3⟩ 3) base = .next t) ∧
      (payloadBuffer (.fastCommand 0) = none ∧ (Instr.fastCommand 0).op ≠ .bitsInBuffer ∧
        ∃ t, exec (.fastCommand 0) base = .next t) :=
  ⟨⟨base_ready, rfl, by decide⟩, ⟨rfl, by decide, _, rfl⟩, rfl, by decide, _, rfl⟩

/-- Each of the three errors, and both ways to BufferTooShort. -/
theorem witness_EachErrorHasItsCause :
    (∃ t, exec (.encodeHeader 8 0 0) base = .next t ∧ t.result = some (.err .invalidTransactionKind)) ∧
      (∃ t, exec (.shortWrite 0 ⟨1, 2⟩ 3) base = .next t ∧ t.result = some (.err .bufferTooShort)) ∧
      (∃ t, exec (.bitsInBuffer ⟨1, 0⟩ 0 0) base = .next t ∧ t.result = some (.err .bufferTooShort)) ∧
      ∃ t, exec (.fastCommand 0) (scripted [.fail []] []) = .next t ∧ t.result = some (.err .busTransferFailure) :=
  ⟨⟨_, rfl, by decide⟩, ⟨_, rfl, by decide⟩, ⟨_, rfl, by decide⟩, _, rfl, by decide⟩

theorem witness_AfterAnErrorTheBlockIsReady :
    (scripted [.fail []] []).Ready ∧ Line.scan .outside (scripted [.fail []] []).trace = some .outside ∧
      ∃ t, exec (.fastCommand 0) (scripted [.fail []] []) = .next t ∧ t.result = some (.err .busTransferFailure) :=
  ⟨scripted_ready _ _, rfl, _, rfl, by decide⟩

theorem witness_BusyBlockRefuses :
    { base with phase := .selected, sel := .low }.cfg.legal = true ∧
      { base with phase := .selected, sel := .low }.phase ≠ .idle ∧ isUndescribed (.fastCommand 0) = false := by
  refine ⟨?_, ?_, ?_⟩ <;> decide

/-- A tag table in which two 8-bit kinds share a tag. -/
theorem witness_IllegalConfigurationRefuses :
    (configured { Config.standard with tags := { TagTable.standard with shortRead := 0x0080#16 } } []).cfg.legal = false ∧
      isUndescribed (.bitAt 0 0) = false := by
  refine ⟨?_, rfl⟩
  decide

/-- SHORT_WRITE of one byte that waits for its header transfer to be answered. -/
def waiting (answers : List BusAnswer) : State :=
  { openExchange (writeRequest [cell 0 0x7E] .shortWrite 0x05#8 0#8 ⟨1, 1⟩ 1) (scripted [] [cell 0 0x7E]) with
    answers := answers }

/-- The same, waiting for its payload transfer to be answered. -/
def waitingPayload (answers : List BusAnswer) : State := { headerDone (waiting answers) with
  trace := [.busBegin Config.openBusCfg, .selLow, .transfer [0x8A] [(0x8A, 0)] true] }

/-- One request for each row from Idle, one state for each row from Selected on: an answer or a failure in each transfer, no payload, the end, and no answer. -/
theorem witness_PhaseTransitionTable :
    (base.Ready ∧ (commandRequest 0x01#8).tooShort = false) ∧
      (writeRequest [] .shortWrite 0x05#8 0#8 ⟨1, 2⟩ 3).tooShort = true ∧
      (isCodec (.bitAt 1 0) = true ∧ ∃ t, exec (.bitAt 1 0) base = .next t) ∧
      base.phase = .idle ∧
      ((waiting [.ok [0]]).phase = .selected ∧ (waiting [.ok [0]]).answers = .ok [0] :: []) ∧
      ((waiting [.fail []]).phase = .selected ∧ (waiting [.fail []]).sel = .low) ∧
      ({ waitingPayload [] with latches := Latches.reset }.phase = .headerSent ∧ Latches.reset.len = 0) ∧
      ((waitingPayload [.ok [0]]).phase = .headerSent ∧ (waitingPayload [.ok [0]]).latches.len ≠ 0) ∧
      ((waitingPayload [.fail []]).sel = .low ∧ (waitingPayload [.fail []]).answers = .fail [] :: []) ∧
      { waiting [] with phase := .payloadTransferred }.phase = .payloadTransferred ∧
      ((waiting []).answers = [] ∧ (waitingPayload []).answers = []) := by
  refine ⟨⟨base_ready, rfl⟩, rfl, ⟨rfl, _, rfl⟩, rfl, ⟨rfl, rfl⟩, ⟨rfl, rfl⟩, ⟨rfl, rfl⟩, ⟨rfl, by decide⟩, ⟨rfl, rfl⟩, rfl, rfl, rfl⟩

theorem waiting_inv (answers : List BusAnswer) : (waiting answers).Inv where
  memory := show Memory.wf [cell 0 0x7E] = true by decide
  select := ⟨fun _ (h : Phase.selected = .idle) => (nomatch h), fun _ => rfl⟩
  framed := rfl
  latched := fun _ => ⟨rfl, rfl⟩
  masked := fun _ h => absurd rfl h
  reading := fun h => absurd rfl h
  deviceId := fun (h : Dest.none = .deviceId) => nomatch h
  pending := fun _ => rfl
  quiet := fun (h : Phase.selected = .idle) => nomatch h

theorem waitingPayload_inv (answers : List BusAnswer) : (waitingPayload answers).Inv where
  memory := show Memory.wf [cell 0 0x7E] = true by decide
  select := ⟨fun _ (h : Phase.headerSent = .idle) => (nomatch h), fun _ => rfl⟩
  framed := rfl
  latched := fun _ => ⟨rfl, rfl⟩
  masked := fun _ h => absurd rfl h
  reading := fun h => absurd rfl h
  deviceId := fun (h : Dest.none = .deviceId) => nomatch h
  pending := fun _ => rfl
  quiet := fun (h : Phase.headerSent = .idle) => nomatch h

theorem witness_TransitionKeepsTheInvariant : (waiting [.ok [0]]).Inv ∧ (waitingPayload [.fail []]).Inv :=
  ⟨waiting_inv _, waitingPayload_inv _⟩

/-- The state after reset with a result pending and buffers written. -/
def returned : State := { scripted [] digits with result := some (.ok .none) }

theorem returned_inv : returned.Inv where
  memory := test_digits_wf
  select := ⟨fun (h : Level.high = .low) => (nomatch h), fun h => absurd rfl h⟩
  framed := rfl
  latched := fun h => absurd rfl h
  masked := fun h => absurd rfl h
  reading := fun h => absurd rfl h
  deviceId := fun (h : Dest.none = .deviceId) => nomatch h
  pending := fun h => absurd rfl h
  quiet := fun _ => ⟨rfl, rfl, rfl⟩

theorem witness_ResetKeepsTheCallersBuffers :
    (returned.phase = .idle ∧ returned.Inv) ∧ (waiting []).phase ≠ .idle :=
  ⟨⟨rfl, returned_inv⟩, by decide⟩

theorem witness_StepKeepsTheInvariant :
    (waiting [.ok [0]]).Inv ∧ ∃ t, step (waiting [.ok [0]]) = .next t ∧ t.phase = .headerSent :=
  ⟨waiting_inv _, _, rfl, by decide⟩

theorem witness_ParametersAreConstant : ∃ t, step (waiting [.ok [0]]) = .next t ∧ t.phase = .headerSent :=
  ⟨_, rfl, by decide⟩

theorem witness_OneStepIsAtMostOneExchange :
    ((waiting [.ok [0], .ok [0]]).sel = .low ↔ (waiting [.ok [0], .ok [0]]).phase ≠ .idle) ∧
      ∃ t, step (waiting [.ok [0], .ok [0]]) = .next t ∧ t.answers = [] := ⟨by decide, _, rfl, by decide⟩

theorem witness_EveryWireTraceIsOneBracket :
    (scripted [.ok [0]] []).Ready ∧
      ∃ t, exec (.fastCommand 0x01#8) (scripted [.ok [0]] []) = .next t ∧ t.phase = .idle :=
  ⟨scripted_ready _ _, _, rfl, rfl⟩

theorem witness_SuccessfulCallTrace :
    (scripted (script 1 [0]) [cell 0 0x7E]).Ready ∧
      encode (scripted (script 1 [0]) [cell 0 0x7E]).cfg (.shortWrite 0x25#8 ⟨1, 1⟩ 1) = some [0x8A#8] ∧
      ∃ t, exec (.shortWrite 0x25#8 ⟨1, 1⟩ 1) (scripted (script 1 [0]) [cell 0 0x7E]) = .next t ∧ t.phase = .idle ∧
        t.result = some (.ok .none) := ⟨scripted_ready _ _, by decide, _, rfl, rfl, by decide⟩

/-- Two states that agree on the one byte sent, with other answers, another call before and other bytes after it. -/
theorem witness_SentBytesDependOnOperandsOnly :
    (scripted (script 1 [0]) digits).Ready ∧ (scripted (script 1 [0xFF]) [cell 0 0x12]).Ready ∧
      (scripted (script 1 [0]) digits).cfg = (scripted (script 1 [0xFF]) [cell 0 0x12]).cfg ∧
      (∀ b n, payloadBuffer (.shortWrite 0x25#8 ⟨1, 1⟩ 1) = some (b, n, true) →
        ∀ j, j < n → readBuf digits b j = readBuf [cell 0 0x12] b j) ∧
      (∃ t, exec (.shortWrite 0x25#8 ⟨1, 1⟩ 1) (scripted (script 1 [0]) digits) = .next t ∧ t.phase = .idle ∧
        t.result = some (.ok .none)) ∧
      ∃ t, exec (.shortWrite 0x25#8 ⟨1, 1⟩ 1) (scripted (script 1 [0xFF]) [cell 0 0x12]) = .next t ∧ t.phase = .idle ∧
        t.result = some (.ok .none) := by
  refine ⟨scripted_ready _ _, scripted_ready _ _, rfl, ?_, ⟨_, rfl, rfl, by decide⟩, _, rfl, rfl, by decide⟩
  intro b n h j hj
  simp only [payloadBuffer, Option.some.injEq, Prod.mk.injEq] at h
  obtain ⟨rfl, rfl, -⟩ := h
  obtain rfl : j = 0 := by omega
  decide

theorem witness_NoOperationReadsAnEarlierLatch :
    ∃ t, exec (.fastCommand 0x01#8) (scripted [.ok [0]] []) = .next t ∧ t.phase = .idle := ⟨_, rfl, rfl⟩

/-- No answer, and the header's answer alone. -/
theorem witness_UnansweredOperationWaits :
    (scripted [] digits).Ready ∧ encode (scripted [] digits).cfg (.shortWrite 0x25#8 ⟨1, 1⟩ 1) = some [0x8A#8] ∧
      (∀ b n sent, payloadBuffer (.shortWrite 0x25#8 ⟨1, 1⟩ 1) = some (b, n, sent) → n ≤ b.len) ∧
      (scripted [] digits).answers = [] ∧ sendsPayload (.shortWrite 0x25#8 ⟨1, 1⟩ 1) ∧
      (scripted [.ok [0]] digits).answers = [.ok [0]] ∧ [0#8].length = [0x8A#8].length := by
  refine ⟨scripted_ready _ _, by decide, ?_, rfl, Nat.one_ne_zero, rfl, rfl⟩
  intro b n sent h
  simp only [payloadBuffer, Option.some.injEq, Prod.mk.injEq] at h
  obtain ⟨rfl, rfl, -⟩ := h
  exact Nat.le_refl 1

/-- The header's answer is there, the payload's comes later. -/
theorem witness_AnswersMayComeLate :
    (∃ t, exec (.shortWrite 0x25#8 ⟨1, 1⟩ 1) { base with answers := [.ok [0]] } = .next t ∧ t.phase = .headerSent) ∧
      ∃ t, exec (.shortWrite 0x25#8 ⟨1, 1⟩ 1) { base with answers := [.ok [0]] ++ [.ok [0]] } = .next t ∧
        t.phase = .idle := ⟨⟨_, rfl, rfl⟩, _, rfl, rfl⟩

theorem witness_EchoReturnsTheWrittenBytes :
    (scripted [] digits).Ready ∧ (scripted [] digits).mem.wf = true ∧ (scripted [] digits).answers = [] ∧
      (scripted [] digits).cfg.tags = TagTable.standard ∧ 3 ≤ (⟨1, 3⟩ : Buf).len ∧ 3 ≤ (⟨2, 3⟩ : Buf).len :=
  ⟨scripted_ready _ _, by decide, rfl, rfl, by decide, by decide⟩

/-- The three cases at the top bit of a 16-bit destination. -/
theorem witness_MaskedWriteClearsSetsAndKeeps :
    15 < 16 ∧ ((0x7FFF#16).getLsbD 15 = false ∧ (0x0000#16).getLsbD 15 = false) ∧ (0x8000#16).getLsbD 15 = true ∧
      ((0xFFFF#16).getLsbD 15 = true ∧ (0x0000#16).getLsbD 15 = false) := by decide

end Sys2Proof.Tests
end

section
/-! PROOF. The scope of the block (00_scope.md): legal tag tables (R6), byte counts the command interface carries (N_MAX of
R5), illegal configurations (D28), and the default parameters (R5). -/

namespace Sys2Proof

/-! ### Tag positions (R6, R60) -/

/-- A word has no bit from position `k` on exactly when it is below `2 ^ k`. -/
theorem and_allOnes_shiftLeft_eq_zero_iff {w k : Nat} (x : BitVec w) (hk : k < w) :
    x &&& BitVec.allOnes w <<< k = 0#w ↔ x.toNat < 2 ^ k := by
  rw [BitVec.toNat_lt_iff_getLsbD_eq_false k hk]
  constructor
  · intro h i
    by_cases hi : k + i < w
    · have hbit := congrArg (BitVec.getLsbD · (k + i)) h
      simpa [hi] using hbit
    · exact BitVec.getLsbD_of_ge x _ (by omega)
  · intro h
    refine BitVec.eq_of_getLsbD_eq fun i hi => ?_
    by_cases hik : i < k
    · simp [hik]
    · have hbit := h (i - k)
      rw [Nat.add_sub_of_le (by omega)] at hbit
      simp [hbit]

/-- The positions where an 8-bit tag has no bit are those above bit 7, an upper bound, and 5:1, the register field. -/
theorem and_not_tagMask_h8_eq_zero_iff (x : Half) :
    x &&& ~~~Format.h8.tagMask = 0#16 ↔ x.toNat < 0x100 ∧ x &&& 0x003E#16 = 0#16 := by
  have hmask : ~~~Format.h8.tagMask = BitVec.allOnes 16 <<< 8 ||| 0x003E#16 := by decide
  have hlow : x &&& BitVec.allOnes 16 <<< 8 = 0#16 ↔ x.toNat < 0x100 :=
    and_allOnes_shiftLeft_eq_zero_iff x (by decide)
  rw [hmask, BitVec.and_or_distrib_left, BitVec.or_eq_zero_iff, hlow]

/-- The positions where a 16-bit tag has no bit are 13:2, the two fields. -/
theorem not_tagMask_h16 : ~~~Format.h16.tagMask = 0x3FFC#16 := by decide

/-! ### The kinds and their formats (R51) -/

@[simp] theorem Kind.mem_all (k : Kind) : k ∈ Kind.all := by cases k <;> decide

@[simp] theorem Format.mem_kinds {f : Format} {k : Kind} : k ∈ f.kinds ↔ k.format = f := by
  cases f <;> cases k <;> decide

theorem Format.kinds_nodup (f : Format) : f.kinds.Nodup := by cases f <;> decide

/-! ### Legal tag tables (R6) -/

/-- The check of the tag table, format by format. -/
theorem TagTable.legal_iff (t : TagTable) :
    t.legal = true ↔
      (∀ k : Kind, t.tag k &&& ~~~k.format.tagMask = 0#16) ∧
        (Format.h8.kinds.map t.tag).Nodup ∧ (Format.h16.kinds.map t.tag).Nodup := by
  simp only [TagTable.legal, Bool.and_eq_true, List.all_eq_true, beq_iff_eq, decide_eq_true_eq, and_assoc, Kind.mem_all,
    true_imp_iff]
  rfl

/-- Every tag keeps off its format's fields exactly when the 8-bit and the 16-bit tags meet R6. -/
theorem TagTable.tags_off_fields_iff (t : TagTable) :
    (∀ k : Kind, t.tag k &&& ~~~k.format.tagMask = 0#16) ↔
      (∀ k : Kind, k.format = .h8 → (t.tag k).toNat < 0x100 ∧ t.tag k &&& 0x003E#16 = 0#16) ∧
        ∀ k : Kind, k.format = .h16 → t.tag k &&& 0x3FFC#16 = 0#16 := by
  constructor
  · intro h
    refine ⟨fun k hk => ?_, fun k hk => ?_⟩
    · rw [← and_not_tagMask_h8_eq_zero_iff, ← hk]
      exact h k
    · rw [← not_tagMask_h16, ← hk]
      exact h k
  · rintro ⟨h8, h16⟩ k
    cases hk : k.format with
    | h8 => exact (and_not_tagMask_h8_eq_zero_iff _).2 (h8 k hk)
    | h16 => rw [not_tagMask_h16]; exact h16 k hk

/-- The tags of one format are pairwise different exactly when the tag determines the kind within it. -/
theorem TagTable.tags_nodup_iff (t : TagTable) (f : Format) :
    (f.kinds.map t.tag).Nodup ↔
      ∀ k : Kind, k.format = f → ∀ k' : Kind, k'.format = f → t.tag k = t.tag k' → k = k' := by
  simp only [List.nodup_map_iff_inj_on f.kinds_nodup, Format.mem_kinds]

/-- Within each format the tag determines the kind: the same said of two kinds of equal header width. -/
theorem TagTable.tags_distinct_iff (t : TagTable) :
    ((Format.h8.kinds.map t.tag).Nodup ∧ (Format.h16.kinds.map t.tag).Nodup) ↔
      ∀ k k' : Kind, k.format = k'.format → t.tag k = t.tag k' → k = k' := by
  rw [t.tags_nodup_iff, t.tags_nodup_iff]
  constructor
  · rintro ⟨h8, h16⟩ k k' hf
    cases hk' : k'.format with
    | h8 => exact h8 k (hf.trans hk') k' hk'
    | h16 => exact h16 k (hf.trans hk') k' hk'
  · intro h
    exact ⟨fun k hk k' hk' => h k k' (hk.trans hk'.symm), fun k hk k' hk' => h k k' (hk.trans hk'.symm)⟩

theorem TagTable.standard_legal : TagTable.standard.legal = true := by decide

/-- Settles O16: the field positions and the distinctness of the tags, each put into R6's arithmetic. -/
theorem legalTagTables : Obligations.LegalTagTables := by
  refine ⟨fun t => ?_, TagTable.standard_legal⟩
  rw [t.legal_iff, t.tags_off_fields_iff, t.tags_distinct_iff, and_assoc]

end Sys2Proof

namespace Sys2Proof.Machine

/-! ### Byte counts (N_MAX of R5) -/

/-- The operations with a byte count: their command decodes, and they fit exactly when the command interface carries the
count. -/
theorem decodeCommand_of_count {c : Command}
    (hop : c.op = .shortRead ∨ c.op = .shortWrite ∨ c.op = .fullRead ∨ c.op = .fullWrite ∨ c.op = .writeTxBuffer) :
    ∃ i, decodeCommand c = .ok i ∧ (∀ g : Config, i.wellFormed g = g.carries c.n) ∧
      refusalOfOperands i = .countTooLarge := by
  obtain h | h | h | h | h := hop <;> exact ⟨_, by rw [decodeCommand, h], fun _ => rfl, rfl⟩

/-- Settles O19: an operation with a byte count is refused or run by the step as `Config.carries` decides. -/
theorem countsBeyondThePortAreRefused : Obligations.CountsBeyondThePortAreRefused := by
  intro s c rest hp hc hop
  obtain ⟨i, hd, hw, hr⟩ := decodeCommand_of_count hop
  constructor
  · intro m hm hlt
    have hcarries : s.cfg.carries c.n = false := by simp [carries_of_bounded c.n hm, hlt]
    rw [step_of_not_wellFormed hp hc hd ((hw _).trans hcarries), hr]
  · intro hbound
    have hcarries : s.cfg.carries c.n = true := by
      obtain hnone | ⟨m, hm, hle⟩ := hbound
      · exact carries_of_unbounded c.n hnone
      · simp [carries_of_bounded c.n hm, hle]
    exact ⟨i, hd, step_of_wellFormed hp hc hd ((hw _).trans hcarries)⟩

/-! ### Illegal configurations (R6, D28) -/

/-- Every described operation has its effect, whatever it is, only when it is accepted (R19). -/
theorem exec_eq_whenAccepted {i : Instr} (s : State) (h : isUndescribed i = false) :
    ∃ effect, exec i s = whenAccepted s effect := by
  cases i with
  | writeTxbOffset => cases h
  | readTxbOffset => cases h
  | _ => exact ⟨_, rfl⟩

/-- Settles O38: every described operation must be accepted first, and an illegal configuration accepts none. -/
theorem illegalConfigurationRefuses : Obligations.IllegalConfigurationRefuses := by
  intro i s hl hi
  obtain ⟨effect, he⟩ := exec_eq_whenAccepted s hi
  rw [he, whenAccepted_illegal hl]

/-! ### The default parameters (R5) -/

@[simp] theorem State.reset_cfg : State.reset.cfg = Config.standard := rfl

/-- Settles O45: the parameters after reset are `Config.standard`, read off value by value. -/
theorem resetHasTheDefaultParameters : Obligations.ResetHasTheDefaultParameters := by
  unfold Obligations.ResetHasTheDefaultParameters
  rw [State.reset_cfg]
  exact ⟨rfl, rfl, rfl, rfl, rfl, rfl, rfl, rfl, rfl, rfl⟩

end Sys2Proof.Machine
end

section
/-! PROOF. The invariant of the machine (10_state.md R26, 42_protocol.md R116): a call in progress and a block at rest are
described each on its own, then every transition and every step is shown to lead from one to the other. -/

namespace Sys2Proof

theorem Config.standard_legal : Config.standard.legal = true := by decide

end Sys2Proof

namespace Sys2Proof.Machine

/-! ### Framing, one more bus call at a time -/

/-- One more bus call moves the line as `Line.after` says. -/
theorem scan_concat {l l' : Line} {calls : List Event} (e : Event) (h : Line.scan l calls = some l') :
    Line.scan l (calls ++ [e]) = l'.after e := by
  rw [scan_append, h]
  simp [Line.scan]

/-- The deselect and the BusEnd of step 8 of R97 close the bracket from every point that allows the deselect. -/
theorem scan_release {l l' : Line} {calls : List Event} (h : Line.scan l calls = some l')
    (hraise : l'.after .selHigh = some .raised) :
    Line.scan l (calls ++ [.selHigh] ++ [.busEnd]) = some .outside :=
  scan_concat .busEnd ((scan_concat .selHigh h).trans hraise)

/-! ### A block at rest -/

/-- While PHASE is Idle the invariant asks for the memory, the select line and the framing alone, and that nothing of a
call is left. -/
theorem State.Inv.of_idle {s : State} (hphase : s.phase = .idle) (hsel : s.sel = .high) (hmem : s.mem.wf = true)
    (hframed : Line.scan .outside s.trace = some .outside)
    (hquiet : s.payload = [] ∧ s.dest = .none ∧ s.localBuf = []) : s.Inv where
  memory := hmem
  select := by simp [hphase, hsel]
  framed := by simp [expectedLine, hphase, hframed]
  latched := fun hbusy => absurd hphase hbusy
  masked := fun hbusy => absurd hphase hbusy
  reading := fun hdest => absurd hquiet.2.1 hdest
  deviceId := fun hdest => by simp [hquiet.2.1] at hdest
  pending := fun hbusy => absurd hphase hbusy
  quiet := fun _ => hquiet

theorem State.Inv.sel_high {s : State} (h : s.Inv) (hphase : s.phase = .idle) : s.sel = .high := by
  cases hsel : s.sel with
  | high => rfl
  | low => exact absurd hphase (h.select.1 hsel)

/-- Between operations the bus stands outside a bracket. -/
theorem State.Inv.outside {s : State} (h : s.Inv) (hphase : s.phase = .idle) :
    Line.scan .outside s.trace = some .outside := by
  simpa [expectedLine, hphase] using h.framed

/-- The invariant does not look at the operations still to be presented. -/
theorem State.Inv.with_commands {s : State} (h : s.Inv) (commands : List Command) :
    { s with commands := commands }.Inv :=
  ⟨h.memory, h.select, h.framed, h.latched, h.masked, h.reading, h.deviceId, h.pending, h.quiet⟩

/-- RESULT is free while PHASE is Idle. -/
theorem deliver_inv {s : State} (h : s.Inv) (hphase : s.phase = .idle) (r : Result) : (deliver r s).Inv :=
  .of_idle hphase (h.sel_high hphase) h.memory (h.outside hphase) (h.quiet hphase)

/-! ### A call in progress -/

/-- What the latches, the payload and the destination hold from step 3 of R97 until the operation ends: the clauses of
`State.Inv` that only such a call meets, without their premise on PHASE. -/
structure State.InCall (s : State) : Prop where
  latched : (s.latches.hdr, s.latches.hlen) = headerOf s.cfg.tags s.latches.kind s.latches.reg s.latches.sub ∧
    s.latches.len = s.payload.length
  masked : s.latches.kind.maskBytes ≠ 0 →
    s.payload = maskPayload s.cfg.maskOrder s.latches.kind.maskBytes s.latches.amask.toNat s.latches.omask.toNat
  reading : s.dest ≠ .none → s.payload = List.replicate s.payload.length s.cfg.readFill
  deviceId : s.dest = .deviceId → s.payload.length = 4

theorem State.Inv.inCall {s : State} (h : s.Inv) (hbusy : s.phase ≠ .idle) : s.InCall where
  latched := h.latched hbusy
  masked := h.masked hbusy
  reading := h.reading
  deviceId := fun hdest => (h.deviceId hdest).1

/-- LEN is 0 exactly when there is no payload (R15). -/
theorem State.InCall.len_eq_zero_iff {s : State} (h : s.InCall) : s.latches.len = 0 ↔ s.payload = [] := by
  rw [h.latched.2, List.length_eq_zero_iff]

/-- A call depends on the parameters, the latches, the payload and the destination alone. -/
theorem State.InCall.congr {s t : State} (h : s.InCall) (hcfg : t.cfg = s.cfg) (hlatches : t.latches = s.latches)
    (hpayload : t.payload = s.payload) (hdest : t.dest = s.dest) : t.InCall := by
  obtain ⟨hlatched, hmasked, hreading, hdeviceId⟩ := h
  constructor <;> simpa only [hcfg, hlatches, hpayload, hdest]

/-- While PHASE is not Idle the invariant is a call in progress, the line low, and the bus, RESULT and the local buffer
where PHASE says. -/
theorem State.Inv.of_inCall {s : State} (hbusy : s.phase ≠ .idle) (hcall : s.InCall) (hsel : s.sel = .low)
    (hmem : s.mem.wf = true) (hframed : Line.scan .outside s.trace = some (expectedLine s))
    (hlocal : s.dest = .deviceId → s.phase = .payloadTransferred → s.localBuf.length = 4)
    (hpending : s.result = if s.phase = .payloadTransferred then some (.ok .none) else none) : s.Inv where
  memory := hmem
  select := ⟨fun _ => hbusy, fun _ => hsel⟩
  framed := hframed
  latched := fun _ => hcall.latched
  masked := fun _ => hcall.masked
  reading := hcall.reading
  deviceId := fun hdest => ⟨hcall.deviceId hdest, hlocal hdest⟩
  pending := fun _ => hpending
  quiet := fun hidle => absurd hidle hbusy

/-! ### The ends of a call -/

/-- Spoiling the destination of a failed read keeps the memory canonical. -/
theorem spoilDest_wf {s : State} (h : s.mem.wf = true) : (spoilDest s).mem.wf = true := by
  rw [spoilDest_mem]
  split
  · exact h
  · exact h
  · exact writeBytes_wf _ _ _ h

/-- Storing received bytes keeps the memory canonical. -/
theorem storeReceived_wf (ins : List Byte) {s : State} (h : s.mem.wf = true) : (storeReceived ins s).mem.wf = true := by
  rw [storeReceived_mem]
  split
  · exact h
  · exact writeBytes_wf _ _ _ h
  · exact h

/-- The failure path of R110 leads to a block at rest. -/
theorem abortCall_inv {s : State} (hsel : s.sel = .low) (hmem : s.mem.wf = true)
    (hframed : Line.scan .outside s.trace = some .failed) : (abortCall s).Inv := by
  obtain ⟨-, hphase, hsel', -, -, htrace, -, hmem', hquiet⟩ := abortCall_spec s hsel
  refine .of_idle hphase hsel' ?_ ?_ hquiet
  · rw [hmem']
    exact spoilDest_wf hmem
  · rw [htrace]
    exact scan_release hframed rfl

/-- A transfer that fails where the bus allows one ends the call. -/
theorem transferFailed_abort_inv {s : State} (h : s.Inv) (hbusy : s.phase ≠ .idle) (out ins : List Byte)
    (rest : List BusAnswer) (hline : ∀ w, (expectedLine s).after (.transfer out w false) = some .failed) :
    (abortCall (transferFailed out ins rest s)).Inv :=
  abortCall_inv (h.select.2 hbusy) h.memory ((scan_concat _ h.framed).trans (hline _))

/-- Steps 8 and 9 of R97 lead to a block at rest. -/
theorem closeStep_inv {s : State} (h : s.Inv) (hp : s.phase = .payloadTransferred) : (closeStep s).Inv := by
  obtain ⟨-, hphase, hsel, -, -, hmem, htrace, -, hquiet⟩ := closeStep_spec s
  refine .of_idle hphase hsel (hmem ▸ h.memory) ?_ hquiet
  rw [htrace]
  refine scan_release h.framed ?_
  simp only [expectedLine, hp]
  split <;> rfl

/-! ### The transitions of PHASE (R112) -/

/-- The header transfer is answered: PHASE HeaderSent. -/
theorem headerAnswered_inv {s : State} (h : s.Inv) (hp : s.phase = .selected) (out ins : List Byte)
    (rest : List BusAnswer) : (headerDone (transferOk out ins rest s)).Inv := by
  have hbusy : s.phase ≠ .idle := by simp [hp]
  have hresult : s.result = none := by simpa [hp] using h.pending hbusy
  refine .of_inCall (by simp) ((h.inCall hbusy).congr rfl rfl rfl rfl) (h.select.2 hbusy) h.memory ?_ (by simp)
    (by simp [hresult])
  refine (scan_concat _ h.framed).trans ?_
  simp only [expectedLine, hp]
  rfl

theorem headerStep_inv {s : State} (h : s.Inv) (hp : s.phase = .selected) : (headerStep s).Inv := by
  match ha : s.answers with
  | [] => rwa [headerStep_waits ha]
  | .ok a :: rest =>
    rw [headerStep_ok ha]
    exact headerAnswered_inv h hp _ _ _
  | .fail g :: rest =>
    rw [headerStep_fail ha]
    exact transferFailed_abort_inv h (by simp [hp]) _ _ _ fun _ => by simp only [expectedLine, hp]; rfl

/-- The end of steps 6 and 7 of R97: PHASE PayloadTransferred, the bus where the payload has left it, and the four bytes of
GET_DEVICE_ID there. -/
theorem payloadDone_inv {s : State} (hcall : s.InCall) (hsel : s.sel = .low) (hmem : s.mem.wf = true)
    (hframed : Line.scan .outside s.trace = some (if s.payload = [] then .headerSent else .payloadSent))
    (hlocal : s.dest = .deviceId → s.localBuf.length = 4) : (payloadDone s).Inv :=
  .of_inCall (by simp) (hcall.congr rfl rfl rfl rfl) hsel hmem hframed (fun hdest _ => hlocal hdest) rfl

/-- A call without payload goes on without a transfer (R115). -/
theorem payloadEmpty_inv {s : State} (h : s.Inv) (hp : s.phase = .headerSent) (hempty : s.payload = []) :
    (payloadDone s).Inv := by
  have hbusy : s.phase ≠ .idle := by simp [hp]
  refine payloadDone_inv (h.inCall hbusy) (h.select.2 hbusy) h.memory ?_ fun hdest => ?_
  · simpa [expectedLine, hp, hempty] using h.framed
  · have hfour := (h.deviceId hdest).1
    simp [hempty] at hfour

/-- The payload transfer is answered: as many bytes as were sent are stored where the call's destination is. -/
theorem payloadAnswered_inv {s : State} (h : s.Inv) (hp : s.phase = .headerSent) (hpayload : s.payload ≠ [])
    {ins : List Byte} (hins : ins.length = s.payload.length) (rest : List BusAnswer) :
    (payloadDone (storeReceived ins (transferOk s.payload ins rest s))).Inv := by
  have hbusy : s.phase ≠ .idle := by simp [hp]
  obtain ⟨hcfg, -, hsel, -, -, htrace, hlatches, -, hpay, hdest, -⟩ :=
    storeReceived_frame ins (transferOk s.payload ins rest s)
  refine payloadDone_inv ((h.inCall hbusy).congr hcfg hlatches hpay hdest) (hsel.trans (h.select.2 hbusy))
    (storeReceived_wf ins h.memory) ?_ fun hdev => ?_
  · rw [htrace, hpay]
    refine (scan_concat _ h.framed).trans ?_
    simp [expectedLine, hp, hpayload, Line.after]
  · have hdev' : s.dest = .deviceId := hdest.symm.trans hdev
    simp [storeReceived_localBuf, hdev', hins, (h.deviceId hdev').1]

theorem payloadStep_inv {s : State} (h : s.Inv) (hp : s.phase = .headerSent) : (payloadStep s).Inv := by
  have hlen := (h.inCall (by simp [hp])).len_eq_zero_iff
  by_cases hn : s.latches.len = 0
  · rw [payloadStep_empty hn]
    exact payloadEmpty_inv h hp (hlen.1 hn)
  · match ha : s.answers with
    | [] => rwa [payloadStep_waits hn ha]
    | .ok b :: rest =>
      rw [payloadStep_ok hn ha]
      exact payloadAnswered_inv h hp (fun he => hn (hlen.2 he)) (receivedBytes_length _ _ _ _) rest
    | .fail g :: rest =>
      rw [payloadStep_fail hn ha]
      exact transferFailed_abort_inv h (by simp [hp]) _ _ _ fun _ => by simp only [expectedLine, hp]; rfl

/-- Settles O40: one step of R97 for each PHASE, each by its own lemma. -/
theorem transitionKeepsTheInvariant : Obligations.TransitionKeepsTheInvariant := by
  intro s h
  cases hp : s.phase with
  | idle => rwa [advance_idle hp]
  | selected => rw [advance_selected hp]; exact headerStep_inv h hp
  | headerSent => rw [advance_headerSent hp]; exact payloadStep_inv h hp
  | payloadTransferred => rw [advance_payloadTransferred hp]; exact closeStep_inv h hp

theorem runExchange_inv {s : State} (h : s.Inv) : (runExchange s).Inv :=
  transitionKeepsTheInvariant _ (transitionKeepsTheInvariant _ (transitionKeepsTheInvariant s h))

/-! ### The start of a call -/

/-- A request a call can start from: a masked write sends its two masks, a read fill bytes only, GET_DEVICE_ID four. -/
structure Request.Fits (c : Config) (r : Request) : Prop where
  masked : r.kind.maskBytes ≠ 0 →
    ∃ a o, r.masks = some (a, o) ∧ r.payload = maskPayload c.maskOrder r.kind.maskBytes a.toNat o.toNat
  reading : r.dest ≠ .none → r.payload = List.replicate r.payload.length c.readFill
  deviceId : r.dest = .deviceId → r.payload.length = 4

theorem readRequest_fits (c : Config) {k : Kind} (hk : k.maskBytes = 0) (reg sub : Byte) (out : Buf) (n : Nat) :
    (readRequest c k reg sub out n).Fits c where
  masked := fun h => absurd hk h
  reading := fun _ => by simp [readRequest]
  deviceId := fun h => nomatch h

theorem writeRequest_fits (c : Config) (m : Memory) {k : Kind} (hk : k.maskBytes = 0) (reg sub : Byte) (buffer : Buf)
    (n : Nat) : (writeRequest m k reg sub buffer n).Fits c where
  masked := fun h => absurd hk h
  reading := fun h => absurd rfl h
  deviceId := fun h => nomatch h

theorem maskRequest_fits (c : Config) (k : Kind) (reg sub : Byte) (a o : MaskWord) :
    (maskRequest c k reg sub a o).Fits c where
  masked := fun _ => ⟨a, o, rfl, rfl⟩
  reading := fun h => absurd rfl h
  deviceId := fun h => nomatch h

theorem txBufRequest_fits (c : Config) (m : Memory) (buffer : Buf) (n : Nat) : (txBufRequest c m buffer n).Fits c := by
  unfold txBufRequest
  split
  · exact writeRequest_fits c m rfl _ _ _ _
  · exact writeRequest_fits c m rfl _ _ _ _

theorem commandRequest_fits (c : Config) (cmd : Byte) : (commandRequest cmd).Fits c where
  masked := fun h => absurd rfl h
  reading := fun h => absurd rfl h
  deviceId := fun h => nomatch h

theorem deviceIdRequest_fits (c : Config) : (deviceIdRequest c).Fits c where
  masked := fun h => absurd rfl h
  reading := fun _ => rfl
  deviceId := fun _ => rfl

/-- Every operation that reaches the bus asks for a call that can start. -/
theorem requestOf_fits {s : State} {i : Instr} {r : Request} (h : requestOf s i = some r) : r.Fits s.cfg := by
  cases i <;> simp only [requestOf, Option.some.injEq, reduceCtorEq] at h <;> subst h
  case fastCommand => exact commandRequest_fits _ _
  case shortRead => exact readRequest_fits _ rfl _ _ _ _
  case shortWrite => exact writeRequest_fits _ _ rfl _ _ _ _
  case fullRead => exact readRequest_fits _ rfl _ _ _ _
  case fullWrite => exact writeRequest_fits _ _ rfl _ _ _ _
  case maskedWrite1 => exact maskRequest_fits _ _ _ _ _ _
  case maskedWrite2 => exact maskRequest_fits _ _ _ _ _ _
  case maskedWrite4 => exact maskRequest_fits _ _ _ _ _ _
  case getDeviceId => exact deviceIdRequest_fits _
  case writeTxBuffer => exact txBufRequest_fits _ _ _ _

theorem openExchange_inCall {r : Request} {s : State} (hr : r.Fits s.cfg) : (openExchange r s).InCall where
  latched := ⟨openExchange_header r s, rfl⟩
  masked := fun hk => by
    obtain ⟨a, o, hmasks, hpayload⟩ := hr.masked hk
    have ha : (openExchange r s).latches.amask = a := latchOperands_amask_some r _ a o hmasks
    have ho : (openExchange r s).latches.omask = o := latchOperands_omask_some r _ a o hmasks
    simpa [ha, ho] using hpayload
  reading := hr.reading
  deviceId := hr.deviceId

/-- Steps 1, 3 and 4 of R97 lead from a block at rest to a call whose header is to be sent. -/
theorem openExchange_inv {r : Request} {s : State} (h : s.Inv) (hphase : s.phase = .idle) (hr : r.Fits s.cfg) :
    (openExchange r s).Inv :=
  .of_inCall (by simp) (openExchange_inCall hr) rfl h.memory
    (scan_concat .selLow (scan_concat (.busBegin _) (h.outside hphase))) (fun _ hp => nomatch hp) rfl

/-- Steps 1 to 9 of R97: a buffer too short leaves the block at rest (R109), and otherwise the call goes on as far as the
answers reach. -/
theorem beginExchange_inv {r : Request} {s : State} (h : s.Inv) (hphase : s.phase = .idle) (hr : r.Fits s.cfg) :
    (beginExchange r s).Inv := by
  cases hshort : r.tooShort with
  | false =>
    rw [beginExchange_open hshort]
    exact runExchange_inv (openExchange_inv h hphase hr)
  | true =>
    have hsel := h.sel_high hphase
    rw [beginExchange_short hshort, raiseError_of_high _ (by simp [hsel])]
    exact .of_idle hphase hsel h.memory (h.outside hphase) ⟨rfl, rfl, rfl⟩

/-! ### Whole operations -/

/-- An accepted operation keeps the invariant: it sets RESULT alone, or it is an exchange. -/
theorem exec_inv {i : Instr} {s t : State} (h : s.Inv) (hphase : s.phase = .idle) (he : exec i s = .next t) : t.Inv := by
  cases hr : requestOf s i with
  | none =>
    obtain ⟨r, rfl⟩ := exec_local hr (h.sel_high hphase) he
    exact deliver_inv h hphase r
  | some r =>
    rw [exec_eq_exchange hr] at he
    obtain ⟨-, -, rfl⟩ := exchange_next he
    exact beginExchange_inv h hphase (requestOf_fits hr)

/-- Settles O41: a step goes on with a call, waits for the caller, or runs a presented operation. -/
theorem stepKeepsTheInvariant : Obligations.StepKeepsTheInvariant := by
  intro s t h hstep
  obtain ⟨-, rfl⟩ | ⟨-, -, rfl⟩ | ⟨c, rest, i, hphase, -, -, -, he⟩ := step_next hstep
  · exact runExchange_inv h
  · exact h
  · exact exec_inv (h.with_commands rest) hphase he

/-! ### Reset (R30, R147) -/

/-- Settles O42: after reset the block is at rest, and no bus call has been made. -/
theorem resetMeetsTheInvariant : Obligations.ResetMeetsTheInvariant :=
  .of_idle rfl rfl rfl rfl ⟨rfl, rfl, rfl⟩

/-- Settles O43: nothing is presented after reset, and the default configuration is legal. -/
theorem resetWaitsForTheFirstOperation : Obligations.ResetWaitsForTheFirstOperation :=
  ⟨rfl, rfl, rfl, Config.standard_legal, rfl⟩

/-- A reset of a block at rest leaves a block at rest. -/
theorem afterReset_inv {s : State} (h : s.Inv) (hphase : s.phase = .idle) : (afterReset s).Inv :=
  .of_idle rfl rfl h.memory (h.outside hphase) ⟨rfl, rfl, rfl⟩

/-- Settles O44: `afterReset_spec` says what a reset of an Idle block leaves, and a busy block refuses it. -/
theorem resetKeepsTheCallersBuffers : Obligations.ResetKeepsTheCallersBuffers := by
  intro s
  refine ⟨fun hphase => ?_, resetBlock_of_busy⟩
  obtain ⟨hphase', hsel, hresult, -, -, -, hcfg, hmem, hcommands, hanswers, htrace⟩ := afterReset_spec s
  exact ⟨afterReset s, resetBlock_of_idle hphase, hphase', hsel, hresult, hcfg, hmem, hcommands, hanswers, htrace,
    fun h => afterReset_inv h hphase⟩

end Sys2Proof.Machine
end

section
/-! PROOF. Presenting an operation (10_state.md R19, 30_encoding.md R67), and that no operation reads a latch or a RESULT an
earlier one left (R14, R15, R18). -/

namespace Sys2Proof

/-! ### Presenting an operation -/

/-- A mask of the variant's own width fits it. -/
theorem decodeMasks_toNat {c : Command} {bits : Nat} (make : BitVec bits → BitVec bits → Instr) (a o : BitVec bits)
    (ha : c.andMask = a.toNat) (ho : c.orMask = o.toNat) : decodeMasks c bits make = .ok (make a o) := by
  have hfits : c.andMask < 2 ^ bits ∧ c.orMask < 2 ^ bits := ⟨ha ▸ a.isLt, ho ▸ o.isLt⟩
  rw [decodeMasks, if_pos hfits, ha, ho, BitVec.ofNat_toNat, BitVec.setWidth_eq, BitVec.ofNat_toNat, BitVec.setWidth_eq]

/-- Settles O17: every operand stands in the command as it is, but for the masks, which stand there as numbers. -/
theorem commandRoundTrip : Obligations.CommandRoundTrip := by
  intro i
  cases i with
  | maskedWrite1 reg sub a o => exact decodeMasks_toNat _ a o rfl rfl
  | maskedWrite2 reg sub a o => exact decodeMasks_toNat _ a o rfl rfl
  | maskedWrite4 reg sub a o => exact decodeMasks_toNat _ a o rfl rfl
  | _ => rfl

end Sys2Proof

namespace Sys2Proof.Machine

/-- Settles O37: every described operation must be accepted first, and a busy block accepts none. -/
theorem busyBlockRefuses : Obligations.BusyBlockRefuses := by
  intro i s hl hp hi
  obtain ⟨effect, he⟩ := exec_eq_whenAccepted s hi
  rw [he, whenAccepted_busy hl hp]

/-! ### A state with other latches and another RESULT -/

/-- The state in which an earlier operation has left these latches and this RESULT. -/
def State.leftWith (s : State) (l : Latches) (r : Option Result) : State := { s with latches := l, result := r }

@[simp] theorem leftWith_cfg (s : State) (l : Latches) (r : Option Result) : (s.leftWith l r).cfg = s.cfg := rfl
@[simp] theorem leftWith_mem (s : State) (l : Latches) (r : Option Result) : (s.leftWith l r).mem = s.mem := rfl

/-- The state with these latches in place of its own. -/
def State.withLatches (s : State) (l : Latches) : State := { s with latches := l }

@[simp] theorem withLatches_payload (s : State) (l : Latches) : (s.withLatches l).payload = s.payload := rfl
@[simp] theorem withLatches_draws (s : State) (l : Latches) : (s.withLatches l).draws = s.draws := rfl

/-- Once a call has ended, what the latches held is gone. -/
@[simp] theorem endCall_withLatches (s : State) (l : Latches) : endCall (s.withLatches l) = endCall s := rfl

theorem raiseError_leftWith (e : ErrorKind) (s : State) (l : Latches) (r : Option Result) :
    raiseError e (s.leftWith l r) = (raiseError e s).withLatches l := by
  cases hsel : s.sel with
  | low => rw [raiseError_of_low e hsel, raiseError_of_low e (s := s.leftWith l r) hsel]; rfl
  | high =>
    have hne : s.sel ≠ .low := by simp [hsel]
    rw [raiseError_of_high e hne, raiseError_of_high e (s := s.leftWith l r) hne]; rfl

theorem raiseError_withLatches (e : ErrorKind) (s : State) (l : Latches) :
    raiseError e (s.withLatches l) = (raiseError e s).withLatches l := raiseError_leftWith e s l s.result

theorem spoilDest_withLatches (s : State) (l : Latches) : spoilDest (s.withLatches l) = (spoilDest s).withLatches l := by
  cases hd : s.dest <;> simp [spoilDest, State.withLatches, hd]

theorem storeReceived_withLatches (ins : List Byte) (s : State) (l : Latches) :
    storeReceived ins (s.withLatches l) = (storeReceived ins s).withLatches l := by
  cases hd : s.dest <;> simp [storeReceived, State.withLatches, hd]

theorem transferFailed_withLatches (out ins : List Byte) (rest : List BusAnswer) (s : State) (l : Latches) :
    transferFailed out ins rest (s.withLatches l) = (transferFailed out ins rest s).withLatches l := rfl

theorem transferOk_withLatches (out ins : List Byte) (rest : List BusAnswer) (s : State) (l : Latches) :
    transferOk out ins rest (s.withLatches l) = (transferOk out ins rest s).withLatches l := rfl

/-- A failed call leaves nothing of its latches. -/
theorem abortCall_withLatches (s : State) (l : Latches) : abortCall (s.withLatches l) = abortCall s := by
  rw [abortCall, spoilDest_withLatches, raiseError_withLatches, endCall_withLatches]
  rfl

/-- A completed call leaves nothing of its latches. -/
theorem closeStep_withLatches (s : State) (l : Latches) : closeStep (s.withLatches l) = closeStep s := rfl

/-! ### The latches a call reads -/

/-- The two states differ at most in latches that no step from 5 of R97 on reads: it reads HDR, HLEN and LEN. -/
def State.SameCall (s u : State) : Prop :=
  ∃ l, u = s.withLatches l ∧ l.hdr = s.latches.hdr ∧ l.hlen = s.latches.hlen ∧ l.len = s.latches.len

theorem State.SameCall.refl (s : State) : s.SameCall s := ⟨s.latches, rfl, rfl, rfl, rfl⟩

theorem headerStep_sameCall {s u : State} (h : s.SameCall u) : (headerStep s).SameCall (headerStep u) := by
  obtain ⟨l, rfl, hhdr, hhlen, hlen⟩ := h
  have hout : headerOut (s.withLatches l) = headerOut s := by simp [headerOut, hhdr, hhlen, State.withLatches]
  match ha : s.answers with
  | [] =>
    rw [headerStep_waits ha, headerStep_waits (s := s.withLatches l) ha]
    exact ⟨l, rfl, hhdr, hhlen, hlen⟩
  | .ok a :: rest =>
    rw [headerStep_ok ha, headerStep_ok (s := s.withLatches l) ha, hout]
    exact ⟨l, rfl, hhdr, hhlen, hlen⟩
  | .fail g :: rest =>
    rw [headerStep_fail ha, headerStep_fail (s := s.withLatches l) ha, hout]
    rw [transferFailed_withLatches, abortCall_withLatches]
    exact .refl _

theorem payloadStep_sameCall {s u : State} (h : s.SameCall u) : (payloadStep s).SameCall (payloadStep u) := by
  obtain ⟨l, rfl, hhdr, hhlen, hlen⟩ := h
  by_cases hn : s.latches.len = 0
  · rw [payloadStep_empty hn, payloadStep_empty (s := s.withLatches l) (hlen.trans hn)]
    exact ⟨l, rfl, hhdr, hhlen, hlen⟩
  have hn' : (s.withLatches l).latches.len ≠ 0 := fun he => hn (hlen.symm.trans he)
  match ha : s.answers with
  | [] =>
    rw [payloadStep_waits hn ha, payloadStep_waits hn' ha]
    exact ⟨l, rfl, hhdr, hhlen, hlen⟩
  | .ok b :: rest =>
    rw [payloadStep_ok hn ha, payloadStep_ok hn' ha]
    obtain ⟨-, -, -, -, -, -, hlatches, -⟩ := storeReceived_frame (receivedBytes s.draws 0 s.payload b)
      (transferOk s.payload (receivedBytes s.draws 0 s.payload b) rest s)
    rw [withLatches_payload, withLatches_draws, transferOk_withLatches, storeReceived_withLatches]
    refine ⟨l, rfl, ?_⟩
    rw [payloadDone_latches, hlatches]
    exact ⟨hhdr, hhlen, hlen⟩
  | .fail g :: rest =>
    rw [payloadStep_fail hn ha, payloadStep_fail hn' ha]
    rw [withLatches_payload, transferFailed_withLatches, abortCall_withLatches]
    exact .refl _

theorem advance_sameCall {s u : State} (h : s.SameCall u) : (advance s).SameCall (advance u) := by
  have hphase : u.phase = s.phase := by obtain ⟨l, rfl, -⟩ := h; rfl
  cases hp : s.phase with
  | idle => rwa [advance_idle hp, advance_idle (hphase.trans hp)]
  | selected =>
    rw [advance_selected hp, advance_selected (hphase.trans hp)]
    exact headerStep_sameCall h
  | headerSent =>
    rw [advance_headerSent hp, advance_headerSent (hphase.trans hp)]
    exact payloadStep_sameCall h
  | payloadTransferred =>
    rw [advance_payloadTransferred hp, advance_payloadTransferred (hphase.trans hp)]
    obtain ⟨l, rfl, -⟩ := h
    rw [closeStep_withLatches]
    exact .refl _

theorem runExchange_sameCall {s u : State} (h : s.SameCall u) : (runExchange s).SameCall (runExchange u) :=
  advance_sameCall (advance_sameCall (advance_sameCall h))

/-! ### What an operation finds in the latches and in RESULT -/

/-- Steps 1 to 9 of R97 set what they read: KIND, REG, SUB and LEN from the request, HDR and HLEN from these, RESULT to
none. AMASK and OMASK, which a request without masks leaves, are not read again. -/
theorem beginExchange_leftWith (q : Request) (s : State) (l : Latches) (r : Option Result) :
    (beginExchange q s).SameCall (beginExchange q (s.leftWith l r)) := by
  cases hshort : q.tooShort with
  | false =>
    rw [beginExchange_open hshort, beginExchange_open hshort]
    exact runExchange_sameCall ⟨(openExchange q (s.leftWith l r)).latches, rfl, rfl, rfl, rfl⟩
  | true =>
    rw [beginExchange_short hshort, beginExchange_short hshort]
    have hlatch : latchOperands q (clearResult (s.leftWith l r)) =
        (latchOperands q (clearResult s)).withLatches (latchOperands q (clearResult (s.leftWith l r))).latches := rfl
    rw [hlatch, raiseError_withLatches, endCall_withLatches]
    exact .refl _

/-! ### What an operation finds when it starts -/

theorem whenAccepted_of_legal_idle {s : State} (hl : s.cfg.legal = true) (hp : s.phase = .idle)
    (e : Host.Outcome State Fault Refusal) : whenAccepted s e = e := by
  simp [whenAccepted, refusalNow, hl, hp]

/-- Acceptance looks at the configuration and PHASE alone (R134). -/
theorem whenAccepted_leftWith {s t u : State} {e e' : Host.Outcome State Fault Refusal} (l : Latches) (r : Option Result)
    (h : whenAccepted s e = .next t) (he : e = .next t → e' = .next u) : whenAccepted (s.leftWith l r) e' = .next u := by
  obtain ⟨hl, hp, heffect⟩ := whenAccepted_next h
  rw [whenAccepted_of_legal_idle (s := s.leftWith l r) hl hp, he heffect]

/-- A codec operation or ENCODE_HEADER leaves the latches it found. -/
theorem exec_leftWith_of_local {i : Instr} {s t : State} (l : Latches) (r : Option Result) (hr : requestOf s i = none)
    (h : exec i s = .next t) : exec i (s.leftWith l r) = .next (t.withLatches l) := by
  cases i <;> simp only [requestOf, reduceCtorEq] at hr
  case bitAt =>
    refine whenAccepted_leftWith l r h fun he => ?_
    split at he <;> cases he
    next hc => exact if_neg hc
  case bitsInRange =>
    refine whenAccepted_leftWith l r h fun he => ?_
    split at he <;> cases he
    next hc => exact if_pos hc
  case bitsInBuffer =>
    refine whenAccepted_leftWith l r h fun he => ?_
    rw [leftWith_cfg, leftWith_mem, raiseError_leftWith]
    split at he
    next hc =>
      rw [if_pos hc]
      split at he <;> cases he
      next hshort => exact if_pos hshort
      next hlong => exact if_neg hlong
    · cases he
  case encodeHeader kindRaw _ _ =>
    refine whenAccepted_leftWith l r h fun he => ?_
    rw [leftWith_cfg, raiseError_leftWith]
    cases hk : s.cfg.kindCodes.kind kindRaw with
    | none => rw [hk] at he; cases he; rfl
    | some k => rw [hk] at he; cases he; rfl
  case writeTxbOffset => cases h
  case readTxbOffset => cases h

/-- The bus request of an operation does not depend on the latches or RESULT. -/
theorem requestOf_leftWith (s : State) (l : Latches) (r : Option Result) (i : Instr) :
    requestOf (s.leftWith l r) i = requestOf s i := by cases i <;> rfl

/-- Settles O51: a local operation passes the latches on, an exchange sets what it reads of them. -/
theorem noOperationReadsAnEarlierLatch : Obligations.NoOperationReadsAnEarlierLatch := by
  intro i s t l r h
  cases hr : requestOf s i with
  | none => exact ⟨l, exec_leftWith_of_local l r hr h⟩
  | some q =>
    rw [exec_eq_exchange hr] at h
    obtain ⟨hl, hp, rfl⟩ := exchange_next h
    obtain ⟨l', hsame, -⟩ := beginExchange_leftWith q s l r
    refine ⟨l', (exec_eq_exchange ((requestOf_leftWith s l r i).trans hr)).trans ?_⟩
    exact (whenAccepted_of_legal_idle (s := s.leftWith l r) hl hp _).trans (congrArg _ hsame)

end Sys2Proof.Machine
end

section
/-! PROOF. Bytes, masks and the bus as the block sees them (20_memory.md): the header bytes on the wire (R37), the chip's
masked write (R44), and that a step runs one operation as at most one exchange (R48, R95, R139). -/

namespace Sys2Proof.Machine

/-! ### The header bytes on the wire (R37, R58) -/

/-- HLEN is the header's length in bytes of the kind's format. -/
theorem headerOf_snd (t : TagTable) (k : Kind) (reg sub : Byte) : (headerOf t k reg sub).2 = k.headerBytes := by
  cases hk : k.format <;> simp [headerOf, hk]

/-- The header bytes are as many bytes of the header value as the format has. -/
theorem sentHeader_eq (c : Config) (k : Kind) (reg sub : Byte) :
    sentHeader c k reg sub = bytesOf c.headerOrder (headerOf c.tags k reg sub).1.toNat (k.format.bits / 8) := by
  rw [sentHeader, wireHeader, headerOf_snd, Kind.headerBytes]

theorem bytesLe_one (h : Half) : bytesLe h.toNat 1 = [h.extractLsb' 0 8] := rfl

theorem bytesLe_two (h : Half) : bytesLe h.toNat 2 = [h.extractLsb' 0 8, h.extractLsb' 8 8] := by
  have hhigh : h.extractLsb' 8 8 = BitVec.ofNat 8 (h.toNat / 256) := by
    rw [BitVec.extractLsb', Nat.shiftRight_eq_div_pow]
  rw [hhigh]
  rfl

/-- Settles O11: the bytes of one or two positions, low one first, and reversed under the default order. -/
theorem headerBytesOnTheWire : Obligations.HeaderBytesOnTheWire := by
  intro c k reg sub
  rw [sentHeader_eq]
  refine ⟨fun hk => ?_, fun hk ho => ?_, fun hk ho => ?_⟩
  · rw [hk]
    cases c.headerOrder with
    | lowFirst => exact bytesLe_one _
    | highFirst => exact congrArg List.reverse (bytesLe_one _)
  · rw [hk, ho]
    exact congrArg List.reverse (bytesLe_two _)
  · rw [hk, ho]
    exact bytesLe_two _

/-! ### The chip's masked write (R44) -/

theorem getLsbD_chipMaskedValue {w : Nat} (old a o : BitVec w) (j : Nat) :
    (chipMaskedValue old a o).getLsbD j = (old.getLsbD j && a.getLsbD j || o.getLsbD j) := by
  rw [chipMaskedValue, BitVec.getLsbD_or, BitVec.getLsbD_and]

/-- Settles O55: the formula of R44 at one bit, for each value of the two mask bits. -/
theorem maskedWriteClearsSetsAndKeeps : Obligations.MaskedWriteClearsSetsAndKeeps := by
  intro w old a o j _
  rw [getLsbD_chipMaskedValue]
  refine ⟨fun ha ho => ?_, fun ho => ?_, fun ha ho => ?_⟩
  · rw [ha, ho, Bool.and_false, Bool.or_false]
  · rw [ho, Bool.or_true]
  · rw [ha, ho, Bool.and_true, Bool.or_false]

/-! ### What a step runs (R48) -/

/-- Nothing is presented: the block waits (R147). -/
theorem step_of_nothing_presented {s : State} (hp : s.phase = .idle) (hc : s.commands = []) : step s = .next s := by
  simp [step, fetch, hp, hc]

/-- An operation waits: the step goes on with it (R119). -/
theorem step_of_busy {s : State} (hp : s.phase ≠ .idle) : step s = .next (runExchange s) := by
  simp [step, fetch, hp]

/-- Settles O21: what the fetch of R48 finds, one lemma for each case. -/
theorem stepRunsThePresentedOperation : Obligations.StepRunsThePresentedOperation :=
  ⟨fun _ _ _ _ => step_of_wellFormed, fun _ => step_of_nothing_presented, fun _ => step_of_busy⟩

/-! ### Bus calls and answers, counted -/

/-- From `s` to `t` the block makes this many transfers, each taking one answer from the front, and selects and deselects
the chip this often; the bus calls it had made stand. -/
def State.Makes (s t : State) (transfers selects deselects : Nat) : Prop :=
  ∃ calls used, t.trace = s.trace ++ calls ∧ s.answers = used ++ t.answers ∧ used.length = transfers ∧
    calls.countP isTransfer = transfers ∧ calls.count .selLow = selects ∧ calls.count .selHigh = deselects

/-- Whatever leaves the bus calls and the answers as they were makes no call. -/
theorem State.Makes.none {s t : State} (htrace : t.trace = s.trace) (hanswers : t.answers = s.answers) :
    s.Makes t 0 0 0 :=
  ⟨[], [], by simp [htrace], by simp [hanswers], rfl, rfl, rfl, rfl⟩

theorem State.Makes.trans {s t u : State} {n n' l l' d d' : Nat} (h : s.Makes t n l d) (h' : t.Makes u n' l' d') :
    s.Makes u (n + n') (l + l') (d + d') := by
  obtain ⟨calls, used, htrace, hanswers, hused, htransfers, hselects, hdeselects⟩ := h
  obtain ⟨calls', used', htrace', hanswers', hused', htransfers', hselects', hdeselects'⟩ := h'
  refine ⟨calls ++ calls', used ++ used', ?_, ?_, ?_, ?_, ?_, ?_⟩
  · rw [htrace', htrace, List.append_assoc]
  · rw [hanswers, hanswers', List.append_assoc]
  · rw [List.length_append, hused, hused']
  · rw [List.countP_append, htransfers, htransfers']
  · rw [List.count_append, hselects, hselects']
  · rw [List.count_append, hdeselects, hdeselects']

/-- One transfer takes one answer. -/
theorem State.Makes.transfer {s t : State} {answer : BusAnswer} {out : List Byte} {wire : List (Byte × Byte)} {ok : Bool}
    (htrace : t.trace = s.trace ++ [.transfer out wire ok]) (hanswers : s.answers = answer :: t.answers) :
    s.Makes t 1 0 0 :=
  ⟨[.transfer out wire ok], [answer], htrace, hanswers, rfl, rfl, rfl, rfl⟩

/-- Steps 1, 3 and 4 of R97 select the chip, once. -/
theorem openExchange_makes (r : Request) (s : State) : s.Makes (openExchange r s) 0 1 0 :=
  ⟨[.busBegin s.cfg.busCfg, .selLow], [], by simp, rfl, rfl, rfl, rfl, rfl⟩

/-- Steps 8 and 9 of R97 deselect the chip, once. -/
theorem closeStep_makes (s : State) : s.Makes (closeStep s) 0 0 1 :=
  ⟨[.selHigh, .busEnd], [], by simp [closeStep], rfl, rfl, rfl, rfl, rfl⟩

/-- The failure path of R110 deselects the chip, once. -/
theorem abortCall_makes {s : State} (h : s.sel = .low) : s.Makes (abortCall s) 0 0 1 := by
  obtain ⟨-, -, -, -, hanswers, htrace, -⟩ := abortCall_spec s h
  exact ⟨[.selHigh, .busEnd], [], by simp [htrace], hanswers.symm, rfl, rfl, rfl, rfl⟩

/-! ### What is left of an exchange -/

/-- How many transfers an exchange has left at most, by PHASE (R97). -/
def Phase.transfersLeft : Phase → Nat
  | .idle => 0
  | .selected => 2
  | .headerSent => 1
  | .payloadTransferred => 0

/-- How often an exchange still deselects the chip, by PHASE (R97, R110). -/
def Phase.deselectsLeft : Phase → Nat
  | .idle => 0
  | .selected => 1
  | .headerSent => 1
  | .payloadTransferred => 1

/-- The exchange in `s` has gone on to `t`: SEL still follows PHASE (R26), the chip was not selected again, and what was
done and what is left to do are within what was left in `s`. -/
structure State.GoesOnTo (s t : State) : Prop where
  select : t.sel = .low ↔ t.phase ≠ .idle
  within : ∃ n d, s.Makes t n 0 d ∧
    n + t.phase.transfersLeft ≤ s.phase.transfersLeft ∧ d + t.phase.deselectsLeft ≤ s.phase.deselectsLeft

/-- What is left, read off the two values of PHASE. -/
theorem State.GoesOnTo.of_phases {s t : State} {p q : Phase} {n d : Nat} (hp : s.phase = p) (hq : t.phase = q)
    (hsel : t.sel = .low ↔ q ≠ .idle) (hmakes : s.Makes t n 0 d)
    (hleft : n + q.transfersLeft ≤ p.transfersLeft ∧ d + q.deselectsLeft ≤ p.deselectsLeft) : s.GoesOnTo t := by
  subst hp hq
  exact ⟨hsel, n, d, hmakes, hleft⟩

theorem State.GoesOnTo.refl {s : State} (h : s.sel = .low ↔ s.phase ≠ .idle) : s.GoesOnTo s :=
  ⟨h, 0, 0, .none rfl rfl, by omega, by omega⟩

theorem State.GoesOnTo.trans {s t u : State} (h : s.GoesOnTo t) (h' : t.GoesOnTo u) : s.GoesOnTo u := by
  obtain ⟨n, d, hmakes, htransfers, hdeselects⟩ := h.within
  obtain ⟨n', d', hmakes', htransfers', hdeselects'⟩ := h'.within
  exact ⟨h'.select, n + n', d + d', hmakes.trans hmakes', by omega, by omega⟩

/-- A failed transfer ends the exchange (R110): nothing is retried. -/
theorem transferFailed_goesOnTo {s : State} {p : Phase} (hp : s.phase = p) (hsel : s.sel = .low)
    (hleft : 1 ≤ p.transfersLeft ∧ 1 ≤ p.deselectsLeft) {g : List Byte} {rest : List BusAnswer}
    (ha : s.answers = .fail g :: rest) (out : List Byte) : s.GoesOnTo (abortCall (transferFailed out g rest s)) := by
  obtain ⟨-, hphase, hsel', -⟩ := abortCall_spec (transferFailed out g rest s) hsel
  exact .of_phases hp hphase (by simp [hsel'])
    ((State.Makes.transfer (transferFailed_trace out g rest s) ha).trans (abortCall_makes hsel)) hleft

theorem headerStep_goesOnTo {s : State} (h : s.sel = .low ↔ s.phase ≠ .idle) (hp : s.phase = .selected) :
    s.GoesOnTo (headerStep s) := by
  have hsel : s.sel = .low := h.2 (by simp [hp])
  match ha : s.answers with
  | [] =>
    rw [headerStep_waits ha]
    exact .refl h
  | .ok a :: rest =>
    rw [headerStep_ok ha]
    exact .of_phases hp (headerDone_phase _) (by simp [hsel]) (.transfer rfl ha) (by decide)
  | .fail g :: rest =>
    rw [headerStep_fail ha]
    exact transferFailed_goesOnTo hp hsel (by decide) ha _

theorem payloadStep_goesOnTo {s : State} (h : s.sel = .low ↔ s.phase ≠ .idle) (hp : s.phase = .headerSent) :
    s.GoesOnTo (payloadStep s) := by
  have hsel : s.sel = .low := h.2 (by simp [hp])
  by_cases hn : s.latches.len = 0
  · rw [payloadStep_empty hn]
    exact .of_phases hp (payloadDone_phase _) (by simp [hsel]) (.none rfl rfl) (by decide)
  match ha : s.answers with
  | [] =>
    rw [payloadStep_waits hn ha]
    exact .refl h
  | .ok b :: rest =>
    rw [payloadStep_ok hn ha]
    obtain ⟨-, -, hsel', -, hanswers, htrace, -⟩ := storeReceived_frame (receivedBytes s.draws 0 s.payload b)
      (transferOk s.payload (receivedBytes s.draws 0 s.payload b) rest s)
    have htaken := ha.trans (congrArg (.ok b :: ·) hanswers.symm)
    exact .of_phases hp (payloadDone_phase _) (by simp [hsel', hsel]) (.transfer htrace htaken) (by decide)
  | .fail g :: rest =>
    rw [payloadStep_fail hn ha]
    exact transferFailed_goesOnTo hp hsel (by decide) ha _

theorem closeStep_goesOnTo {s : State} (hp : s.phase = .payloadTransferred) : s.GoesOnTo (closeStep s) := by
  obtain ⟨-, hphase, hsel, -⟩ := closeStep_spec s
  exact .of_phases hp hphase (by simp [hsel]) (closeStep_makes s) (by decide)

theorem advance_goesOnTo {s : State} (h : s.sel = .low ↔ s.phase ≠ .idle) : s.GoesOnTo (advance s) := by
  cases hp : s.phase with
  | idle => rw [advance_idle hp]; exact .refl h
  | selected => rw [advance_selected hp]; exact headerStep_goesOnTo h hp
  | headerSent => rw [advance_headerSent hp]; exact payloadStep_goesOnTo h hp
  | payloadTransferred => rw [advance_payloadTransferred hp]; exact closeStep_goesOnTo hp

theorem runExchange_goesOnTo {s : State} (h : s.sel = .low ↔ s.phase ≠ .idle) : s.GoesOnTo (runExchange s) :=
  have h₁ := advance_goesOnTo h
  have h₂ := advance_goesOnTo h₁.select
  h₁.trans (h₂.trans (advance_goesOnTo h₂.select))

/-! ### A whole operation is one exchange (R48, R95, R139) -/

/-- From `s` to `t` the block makes the calls of one exchange at most. -/
def State.MakesOneExchange (s t : State) : Prop :=
  ∃ n l d, s.Makes t n l d ∧ n ≤ 2 ∧ l ≤ 1 ∧ d ≤ 1

theorem State.MakesOneExchange.none {s t : State} (htrace : t.trace = s.trace) (hanswers : t.answers = s.answers) :
    s.MakesOneExchange t :=
  ⟨0, 0, 0, .none htrace hanswers, by omega, by omega, by omega⟩

theorem Phase.transfersLeft_le (p : Phase) : p.transfersLeft ≤ 2 := by cases p <;> decide

theorem Phase.deselectsLeft_le (p : Phase) : p.deselectsLeft ≤ 1 := by cases p <;> decide

/-- An exchange that goes on, once the chip was selected at most once, is one exchange. -/
theorem State.Makes.oneExchange {s t u : State} {l : Nat} (h : s.Makes t 0 l 0) (hl : l ≤ 1) (h' : t.GoesOnTo u) :
    s.MakesOneExchange u := by
  obtain ⟨n, d, hmakes, hn, hd⟩ := h'.within
  have htransfers := t.phase.transfersLeft_le
  have hdeselects := t.phase.deselectsLeft_le
  exact ⟨0 + n, l + 0, 0 + d, h.trans hmakes, by omega, by omega, by omega⟩

/-- An operation whose buffer is too short makes no bus call (R109); any other selects the chip and goes on. -/
theorem beginExchange_makesOneExchange {r : Request} {s : State} (hsel : s.sel = .high) :
    s.MakesOneExchange (beginExchange r s) := by
  cases hshort : r.tooShort with
  | false =>
    rw [beginExchange_open hshort]
    exact (openExchange_makes r s).oneExchange le_rfl (runExchange_goesOnTo (by simp))
  | true =>
    rw [beginExchange_short hshort, raiseError_of_high _ (by simp [hsel])]
    exact .none rfl rfl

theorem exec_makesOneExchange {i : Instr} {s t : State} (hsel : s.sel = .high) (h : exec i s = .next t) :
    s.MakesOneExchange t := by
  cases hr : requestOf s i with
  | none =>
    obtain ⟨r, rfl⟩ := exec_local hr hsel h
    exact .none rfl rfl
  | some r =>
    rw [exec_eq_exchange hr] at h
    obtain ⟨-, -, rfl⟩ := exchange_next h
    exact beginExchange_makesOneExchange hsel

theorem step_makesOneExchange {s t : State} (h : s.sel = .low ↔ s.phase ≠ .idle) (hstep : step s = .next t) :
    s.MakesOneExchange t := by
  obtain ⟨-, rfl⟩ | ⟨-, -, rfl⟩ | ⟨c, rest, i, hphase, -, -, -, he⟩ := step_next hstep
  · exact (State.Makes.none rfl rfl).oneExchange zero_le_one (runExchange_goesOnTo h)
  · exact .none rfl rfl
  · have hsel : s.sel = .high := by
      cases hs : s.sel with
      | high => rfl
      | low => exact absurd hphase (h.1 hs)
    exact exec_makesOneExchange (s := { s with commands := rest }) hsel he

/-- Settles O47: a step goes on with an exchange, waits, or runs an operation, which opens one exchange at most. -/
theorem oneStepIsAtMostOneExchange : Obligations.OneStepIsAtMostOneExchange := by
  intro s t h hstep
  obtain ⟨n, l, d, ⟨calls, used, htrace, hanswers, hused, htransfers, hselects, hdeselects⟩, hn, hl, hd⟩ :=
    step_makesOneExchange h hstep
  exact ⟨calls, used, htrace, hanswers, hused.trans_le hn, htransfers.trans hused.symm, hselects.trans_le hl,
    hdeselects.trans_le hd⟩

end Sys2Proof.Machine
end

section
/-! PROOF. The encoding tables (30_encoding.md): what of the raw register bytes reaches a header (R55, R56), the patterns
that are no header (R64), and the opcode-table words (R60) as the machine reads and runs them. -/

namespace Sys2Proof

/-! ### The register fields (R55, R56) -/

theorem regField_and_mask (reg : Byte) : regField (reg &&& 0x1F#8) = regField reg := by
  have hmask : (0x1F#8).setWidth 5 = BitVec.allOnes 5 := rfl
  rw [regField, BitVec.setWidth_and, hmask, BitVec.and_allOnes, regField]

theorem subField_and_mask (sub : Byte) : subField (sub &&& 0x7F#8) = subField sub := by
  have hmask : (0x7F#8).setWidth 7 = BitVec.allOnes 7 := rfl
  rw [subField, BitVec.setWidth_and, hmask, BitVec.and_allOnes, subField]

/-- A header depends on its register bytes through their fields alone. -/
theorem headerOf_and_mask (t : TagTable) (k : Kind) (reg sub : Byte) :
    headerOf t k (reg &&& 0x1F#8) (sub &&& 0x7F#8) = headerOf t k reg sub := by
  simp only [headerOf, regField_and_mask, subField_and_mask]

theorem headerOf_h8_ignores_sub (t : TagTable) {k : Kind} (hk : k.format = .h8) (reg sub sub' : Byte) :
    headerOf t k reg sub = headerOf t k reg sub' := by
  simp only [headerOf, hk]

/-! ### The tag positions of a header (R60, R64) -/

/-- Masking with the positions outside a middle field of zeros keeps the two ends of the word. -/
theorem and_allOnes_append_zero_append_allOnes {a m c : Nat} (x : BitVec (a + m + c)) :
    x &&& (BitVec.allOnes a ++ 0#m ++ BitVec.allOnes c) = x.extractLsb' (m + c) a ++ 0#m ++ x.extractLsb' 0 c := by
  have hsplit : x.extractLsb' (c + m) a ++ x.extractLsb' c m ++ x.extractLsb' 0 c = x := by
    rw [BitVec.extractLsb'_append_extractLsb'_eq_extractLsb' rfl,
      BitVec.extractLsb'_append_extractLsb'_eq_extractLsb' (Nat.zero_add c).symm, BitVec.extractLsb'_eq_self]
  calc x &&& (BitVec.allOnes a ++ 0#m ++ BitVec.allOnes c)
      = (x.extractLsb' (c + m) a ++ x.extractLsb' c m ++ x.extractLsb' 0 c) &&&
          (BitVec.allOnes a ++ 0#m ++ BitVec.allOnes c) := by rw [hsplit]
    _ = x.extractLsb' (m + c) a ++ 0#m ++ x.extractLsb' 0 c := by
      rw [BitVec.and_append, BitVec.and_append, BitVec.and_allOnes, BitVec.and_zero, BitVec.and_allOnes, Nat.add_comm c m]

/-- The tag positions of an 8-bit header are bits 7:6 and bit 0. -/
theorem setWidth_and_tagMask_h8 (b : Byte) :
    b.setWidth 16 &&& Format.h8.tagMask = 0#8 ++ (b.extractLsb' 6 2 ++ 0#5 ++ b.extractLsb' 0 1) := by
  have hmask : Format.h8.tagMask = 0#8 ++ (BitVec.allOnes 2 ++ 0#5 ++ BitVec.allOnes 1) := by decide
  have hwide : b.setWidth 16 = 0#8 ++ b := BitVec.setWidth_eq_append (by decide)
  rw [hmask, hwide, BitVec.and_append, BitVec.and_zero]
  exact congrArg (0#8 ++ ·) (and_allOnes_append_zero_append_allOnes (a := 2) (m := 5) (c := 1) b)

/-- The tag positions of a 16-bit header are bits 15:14 and bits 1:0. -/
theorem and_tagMask_h16 (h : Half) :
    h &&& Format.h16.tagMask = h.extractLsb' 14 2 ++ 0#12 ++ h.extractLsb' 0 2 := by
  have hmask : Format.h16.tagMask = BitVec.allOnes 2 ++ 0#12 ++ BitVec.allOnes 2 := by decide
  rw [hmask]
  exact and_allOnes_append_zero_append_allOnes (a := 2) (m := 12) (c := 2) h

theorem kindOfTag_eq_none_iff (t : TagTable) (f : Format) (h : Half) :
    kindOfTag t f h = none ↔ ∀ k ∈ f.kinds, t.tag k ≠ h &&& f.tagMask := by
  simp only [kindOfTag, List.find?_eq_none, beq_iff_eq]

/-- A byte always fits the 8-bit format, so it is no header exactly when its tag positions hold no tag. -/
theorem decodeHeader_h8_eq_none_iff (t : TagTable) (b : Byte) :
    decodeHeader t .h8 (b.setWidth 16) = none ↔ kindOfTag t .h8 (b.setWidth 16) = none := by
  have hfits : (b.setWidth 16).toNat < 256 := by
    rw [BitVec.toNat_setWidth_of_le (by decide)]
    exact b.isLt
  rw [decodeHeader, if_pos hfits, Option.map_eq_none_iff]

theorem decodeHeader_h16_eq_none_iff (t : TagTable) (h : Half) :
    decodeHeader t .h16 h = none ↔ kindOfTag t .h16 h = none := by
  rw [decodeHeader, Option.map_eq_none_iff]

/-- With bit 6 clear, the one pattern of the tag positions that the default 8-bit tags leave out has bit 7 clear and bit 0
set. -/
theorem standard_tag_h8_unused_iff (x : BitVec 2) (y : BitVec 1) (hx : x.getLsbD 0 = false) :
    (∀ k ∈ Format.h8.kinds, TagTable.standard.tag k ≠ 0#8 ++ (x ++ 0#5 ++ y)) ↔
      x.getLsbD 1 = false ∧ y.getLsbD 0 = true := by
  revert x y; decide

/-- With bit 14 set, the patterns of the tag positions that the default 16-bit tags leave out have bit 15 clear and a bit
in 1:0. -/
theorem standard_tag_h16_unused_iff (x y : BitVec 2) (hx : x.getLsbD 0 = true) :
    (∀ k ∈ Format.h16.kinds, TagTable.standard.tag k ≠ x ++ 0#12 ++ y) ↔ x.getLsbD 1 = false ∧ y ≠ 0#2 := by
  revert x y; decide

/-- Settles O15: whether a value is a header is read off its tag positions, and the default table is compared there. -/
theorem neverEmittedPatterns : Obligations.NeverEmittedPatterns := by
  refine ⟨fun b hb => ?_, fun h hh => ?_⟩
  · rw [decodeHeader_h8_eq_none_iff, kindOfTag_eq_none_iff, setWidth_and_tagMask_h8,
      standard_tag_h8_unused_iff _ _ (by simpa using hb)]
    simp
  · rw [decodeHeader_h16_eq_none_iff, kindOfTag_eq_none_iff, and_tagMask_h16,
      standard_tag_h16_unused_iff _ _ (by simpa using hh)]
    simp

/-! ### Opcode-table words (R60) -/

/-- Settles O20: six fixed words, each decoded by the model's own decoders. -/
theorem tableWordsDecode : Obligations.TableWordsDecode :=
  ⟨by decide, by decide, by decide, by decide, by decide, by decide⟩

/-- A table word's instruction is what the command of some decoded header presents. -/
theorem decodeCommand_of_decodeTableWord {nbits w : Nat} {i : Instr} (h : decodeTableWord nbits w = some i) :
    ∃ d : DecodedHeader, decodeCommand d.command = .ok i := by
  unfold decodeTableWord at h
  split at h
  next => cases h
  next d _ =>
    split at h
    next j hj =>
      injection h with h
      exact ⟨d, h ▸ hj⟩
    next => cases h
  next => cases h

theorem exists_of_decodeMasks_ok {c : Command} {bits : Nat} {make : BitVec bits → BitVec bits → Instr} {i : Instr}
    (h : decodeMasks c bits make = .ok i) : ∃ a o, make a o = i := by
  unfold decodeMasks at h
  split at h
  · injection h with h
    exact ⟨_, _, h⟩
  · cases h

/-- A command whose count and scalar are zero presents an operation whose operands fit. -/
theorem wellFormed_of_decodeCommand (g : Config) {c : Command} {i : Instr} (hn : c.n = 0) (hv : c.value = 0)
    (h : decodeCommand c = .ok i) : i.wellFormed g = true := by
  cases hop : c.op with
  | maskedWrite1 | maskedWrite2 | maskedWrite4 =>
    simp only [decodeCommand, hop] at h
    obtain ⟨a, o, rfl⟩ := exists_of_decodeMasks_ok h
    rfl
  | _ =>
    simp only [decodeCommand, hop, Except.ok.injEq] at h
    subst h
    simp [Instr.wellFormed, hn, hv]

@[simp] theorem DecodedHeader.command_n (d : DecodedHeader) : d.command.n = 0 := by cases d <;> rfl

@[simp] theorem DecodedHeader.command_value (d : DecodedHeader) : d.command.value = 0 := by cases d <;> rfl

/-- An instruction of the opcode table fits under every configuration: the operands without bits are zero (log 2). -/
theorem wellFormed_of_decodeTableWord (g : Config) {nbits w : Nat} {i : Instr} (h : decodeTableWord nbits w = some i) :
    i.wellFormed g = true := by
  obtain ⟨d, hd⟩ := decodeCommand_of_decodeTableWord h
  exact wellFormed_of_decodeCommand g d.command_n d.command_value hd

end Sys2Proof

namespace Sys2Proof.Machine

/-- ENCODE_HEADER sees its register bytes only through the header of the kind its number stands for. -/
theorem exec_encodeHeader_congr {s : State} {kindRaw : Nat} {reg sub reg' sub' : Byte}
    (h : ∀ k, s.cfg.kindCodes.kind kindRaw = some k → headerOf s.cfg.tags k reg sub = headerOf s.cfg.tags k reg' sub') :
    exec (.encodeHeader kindRaw reg sub) s = exec (.encodeHeader kindRaw reg' sub') s := by
  change execEncodeHeader kindRaw reg sub s = execEncodeHeader kindRaw reg' sub' s
  unfold execEncodeHeader
  cases hk : s.cfg.kindCodes.kind kindRaw with
  | none => rfl
  | some k => simp only [h k hk]

/-- Settles O12: equal headers, put through ENCODE_HEADER and on the wire. -/
theorem registerBytesAreTruncatedSilently : Obligations.RegisterBytesAreTruncatedSilently := by
  intro s kindRaw reg sub sub'
  refine ⟨?_, fun k hk h8 => ?_, fun k => ?_⟩
  · exact exec_encodeHeader_congr fun k _ => (headerOf_and_mask _ k reg sub).symm
  · refine exec_encodeHeader_congr fun k' hk' => ?_
    obtain rfl : k = k' := Option.some.inj (hk.symm.trans hk')
    exact headerOf_h8_ignores_sub _ h8 reg sub sub'
  · rw [sentHeader, sentHeader, headerOf_and_mask]

/-- Settles O22: the word's command decodes to the instruction again, whose operands fit, so the step runs it. -/
theorem fetchedWordRuns : Obligations.FetchedWordRuns := by
  intro s nbits w i h
  simp only [State.withFetchWord, h]
  exact step_of_wellFormed rfl rfl (commandRoundTrip i) (wellFormed_of_decodeTableWord s.cfg h)

end Sys2Proof.Machine
end

section
/-! PROOF. The Bit/Buffer Codec (40_codec.md): the bits of a scalar and of a little-endian byte sequence, and what each codec
operation answers once it is accepted. -/

namespace Sys2Proof.Machine

/-! ### Bits of scalars and of bytes (R71 to R76) -/

theorem bitOf_eq_testBit (v p : Nat) : bitOf v p = if v.testBit p then 1 else 0 := by
  rw [bitOf_eq, ← Nat.toNat_testBit]
  cases v.testBit p <;> rfl

/-- A range of one bit is that bit. -/
theorem bitsOf_single (v k : Nat) : bitsOf v k k = bitOf v k := by
  rw [bitsOf, Nat.sub_self]
  rfl

/-- Masking before the shift or after it gives the same bits. -/
theorem and_shiftLeft (v m k : Nat) : v &&& (m <<< k) = ((v >>> k) &&& m) <<< k := by
  refine Nat.eq_of_testBit_eq fun i => ?_
  rw [Nat.testBit_and, Nat.testBit_shiftLeft, Nat.testBit_shiftLeft, Nat.testBit_and, Nat.testBit_shiftRight]
  by_cases hk : k ≤ i <;> simp [hk]

/-- The reconstruction law of R74: the field shifted left again agrees with the value on the range. -/
theorem bitsOf_shiftLeft_and (v low high : Nat) :
    (bitsOf v low high <<< low) &&& ((2 ^ (high - low + 1) - 1) <<< low) = v &&& ((2 ^ (high - low + 1) - 1) <<< low) := by
  rw [and_shiftLeft v, ← Nat.shiftLeft_and_distrib, bitsOf, Nat.and_assoc, Nat.and_self]

/-- Bit k of a little-endian scalar is bit k mod 8 of byte k / 8 (R76). -/
theorem testBit_littleEndian (bytes : List Byte) (k : Nat) :
    (littleEndian bytes).testBit k = (bytes.getD (k / 8) 0).getLsbD (k % 8) := by
  induction bytes generalizing k with
  | nil => simp [littleEndian]
  | cons b rest ih =>
    have hsum : littleEndian (b :: rest) = 2 ^ 8 * littleEndian rest + b.toNat := Nat.add_comm _ _
    rw [hsum, Nat.testBit_two_pow_mul_add _ b.isLt]
    split
    next hk => rw [Nat.div_eq_of_lt hk, Nat.mod_eq_of_lt hk]; rfl
    next hk =>
      obtain ⟨j, rfl⟩ := Nat.exists_eq_add_of_le (Nat.le_of_not_lt hk)
      rw [Nat.add_sub_cancel_left, ih, Nat.add_div_left _ (by decide), Nat.add_mod_left]
      rfl

theorem getD_readBytesFrom (m : Memory) (b : Buf) {n j : Nat} (start : Nat) (h : j < n) :
    (readBytesFrom m b start n).getD j 0 = readBuf m b (start + j) := by
  induction n generalizing start j with
  | zero => omega
  | succ n ih =>
    cases j with
    | zero => rfl
    | succ j => exact (ih (start + 1) (Nat.lt_of_succ_lt_succ h)).trans (by rw [Nat.add_right_comm, Nat.add_assoc])

theorem getD_readBytes (m : Memory) (b : Buf) {n j : Nat} (h : j < n) : (readBytes m b n).getD j 0 = readBuf m b j := by
  rw [readBytes, getD_readBytesFrom m b 0 h, Nat.zero_add]

/-- BITS_IN_BUFFER's field is the range of the little-endian scalar of the bytes read (R73). -/
theorem fieldOf_readBytes (m : Memory) (b : Buf) (low high : Nat) :
    fieldOf (readBytes m b (bytesNeeded high)) low high = bitsOf (littleEndian (readBytes m b (bytesNeeded high))) low high := by
  rw [fieldOf, List.take_of_length_le (readBytes_length m b _).le]
  exact congrArg (bitsOf · low high) (scalarOfLe_eq _)

/-- The field depends on the bytes up to floor(high / 8) alone (R76). -/
theorem fieldOf_readBytes_congr {m m' : Memory} {b b' : Buf} {high : Nat}
    (h : ∀ j, j ≤ high / 8 → readBuf m b j = readBuf m' b' j) (low : Nat) :
    fieldOf (readBytes m b (bytesNeeded high)) low high = fieldOf (readBytes m' b' (bytesNeeded high)) low high := by
  have hbytes : readBytes m b (bytesNeeded high) = readBytes m' b' (bytesNeeded high) :=
    readBytesFrom_congr fun j _ hj => h j (by rw [bytesNeeded] at hj; omega)
  rw [hbytes]

/-- A field of one bit is bit k mod 8 of byte k / 8 (R76). -/
theorem fieldOf_readBytes_single (m : Memory) (b : Buf) (k : Nat) :
    fieldOf (readBytes m b (bytesNeeded k)) k k = if (readBuf m b (k / 8)).getLsbD (k % 8) then 1 else 0 := by
  have hbyte : (readBytes m b (bytesNeeded k)).getD (k / 8) 0 = readBuf m b (k / 8) :=
    getD_readBytes m b (Nat.lt_succ_self (k / 8))
  rw [fieldOf_readBytes, bitsOf_single, bitOf_eq_testBit, testBit_littleEndian, hbyte]

/-! ### What a codec operation answers when it is accepted -/

section
variable {s : State} (hs : s.Ready) {low high : Nat}
include hs

theorem exec_bitAt_of_lt {position : Nat} (value : Nat) (h : position < s.cfg.scalarBits) :
    exec (.bitAt value position) s = .next (deliver (.ok (.scalar (bitOf value position))) s) :=
  (whenAccepted_of_ready hs _).trans (if_neg (Nat.not_le.2 h))

theorem exec_bitAt_of_le {position : Nat} (value : Nat) (h : s.cfg.scalarBits ≤ position) :
    exec (.bitAt value position) s = .refused .bitPositionOutOfRange :=
  (whenAccepted_of_ready hs _).trans (if_pos h)

theorem exec_bitsInRange_of_valid (value : Nat) (h : low ≤ high ∧ high < s.cfg.scalarBits) :
    exec (.bitsInRange value low high) s = .next (deliver (.ok (.scalar (bitsOf value low high))) s) :=
  (whenAccepted_of_ready hs _).trans (if_pos (rangeValid_iff.2 h))

theorem exec_bitsInRange_of_invalid (value : Nat) (h : ¬ (low ≤ high ∧ high < s.cfg.scalarBits)) :
    exec (.bitsInRange value low high) s = .refused .bitRangeInvalid :=
  (whenAccepted_of_ready hs _).trans (if_neg (mt rangeValid_iff.1 h))

theorem exec_bitsInBuffer_of_valid {b : Buf} (h : low ≤ high ∧ high < s.cfg.scalarBits) (hlen : high / 8 < b.len) :
    exec (.bitsInBuffer b low high) s =
      .next (deliver (.ok (.scalar (fieldOf (readBytes s.mem b (bytesNeeded high)) low high))) s) :=
  (whenAccepted_of_ready hs _).trans <| (if_pos (rangeValid_iff.2 h)).trans (if_neg (Nat.not_lt.2 hlen))

/-- The select line is high, so the error changes RESULT alone (R136). -/
theorem exec_bitsInBuffer_of_short {b : Buf} (h : low ≤ high ∧ high < s.cfg.scalarBits) (hlen : b.len < high / 8 + 1) :
    exec (.bitsInBuffer b low high) s = .next (deliver (.err .bufferTooShort) s) := by
  rw [← raiseError_of_high .bufferTooShort (s := s) (by simp [hs.high])]
  exact (whenAccepted_of_ready hs _).trans <| (if_pos (rangeValid_iff.2 h)).trans (if_pos hlen)

theorem exec_bitsInBuffer_of_invalid (b : Buf) (h : ¬ (low ≤ high ∧ high < s.cfg.scalarBits)) :
    exec (.bitsInBuffer b low high) s = .refused .bitRangeInvalid :=
  (whenAccepted_of_ready hs _).trans (if_neg (mt rangeValid_iff.1 h))

end

/-! ### The statements of 40_codec.md -/

/-- Settles O3: one clause for each of the two checks, and the field as arithmetic. -/
theorem bitsInBufferAssemblesLittleEndian : Obligations.BitsInBufferAssemblesLittleEndian := by
  intro s b low high hs
  refine ⟨fun hr hlen => ?_, fun hr hlen => ?_, exec_bitsInBuffer_of_invalid hs b⟩
  · rw [exec_bitsInBuffer_of_valid hs hr hlen, fieldOf_readBytes, bitsOf_eq]
    rfl
  · exact exec_bitsInBuffer_of_short hs hr hlen

/-- Settles O4: the field returned is `bitsOf`, for which the law is one of masks and shifts. -/
theorem extractedBitsReconstructTheRange : Obligations.ExtractedBitsReconstructTheRange := by
  intro s value low high hs _ hle hlt
  exact ⟨_, exec_bitsInRange_of_valid hs value ⟨hle, hlt⟩, bitsOf_shiftLeft_and value low high⟩

/-- Settles O5: equal prefixes give equal fields, and the field of one bit is read off its byte. -/
theorem bufferFieldDependsOnItsPrefix : Obligations.BufferFieldDependsOnItsPrefix := by
  refine ⟨fun s s' b b' low high hs hs' hcfg hle hlt hlen hlen' hprefix => ?_, fun s b k hs hk hlen => ?_⟩
  · refine ⟨_, exec_bitsInBuffer_of_valid hs ⟨hle, hlt⟩ hlen, ?_⟩
    rw [exec_bitsInBuffer_of_valid hs' ⟨hle, hcfg ▸ hlt⟩ hlen', fieldOf_readBytes_congr hprefix]
    rfl
  · rw [exec_bitsInBuffer_of_valid hs ⟨le_rfl, hk⟩ hlen, fieldOf_readBytes_single]
    rfl

/-- A codec operation and ENCODE_HEADER ask nothing of the bus (R70, R81). -/
theorem requestOf_eq_none_of_local {i : Instr} (s : State) (h : isCodec i = true ∨ i.op = .encodeHeader) :
    requestOf s i = none := by
  cases i with
  | bitAt | bitsInRange | bitsInBuffer | encodeHeader | writeTxbOffset | readTxbOffset => rfl
  | _ => simp [isCodec, Instr.op] at h

/-- Settles O6: an operation without a bus request delivers a result, and that is all it does. -/
theorem localOperationsChangeResultAlone : Obligations.LocalOperationsChangeResultAlone := by
  intro i s t hi hsel h
  obtain ⟨r, rfl⟩ := exec_local (requestOf_eq_none_of_local s hi) hsel h
  exact ⟨rfl, Option.some_ne_none r⟩

/-- Settles O1: one clause for each side of the position check, and the bit as the number 0 or 1. -/
theorem bitAtReturnsTheBit : Obligations.BitAtReturnsTheBit := by
  intro s value position hs
  refine ⟨fun hp => ?_, exec_bitAt_of_le hs value⟩
  rw [exec_bitAt_of_lt hs value hp, bitOf_eq_testBit]
  rfl

/-- Settles O2: one clause for each side of the range check, and the field as arithmetic. -/
theorem bitsInRangeExtractsTheField : Obligations.BitsInRangeExtractsTheField := by
  intro s value low high hs
  refine ⟨fun hr => ?_, exec_bitsInRange_of_invalid hs value⟩
  rw [exec_bitsInRange_of_valid hs value hr, bitsOf_eq]
  rfl

end Sys2Proof.Machine
end

section
/-! PROOF. The Transaction Encoder (41_encoder.md): which kind a number or a tag stands for (R80, R92), a header as tag plus
fields in arithmetic (R81), decoding as the converse of encoding (R93), and what ENCODE_HEADER answers (R90, R94). -/

namespace Sys2Proof

/-! ### The kind a number or a tag stands for (R80, R92) -/

/-- Where the key tells the elements of a list apart, a search by key finds the one element that has it. -/
theorem find?_key_eq_some_iff {α β : Type} [BEq β] [LawfulBEq β] {l : List α} {key : α → β}
    (hinj : ∀ x ∈ l, ∀ y ∈ l, key x = key y → x = y) (b : β) (x : α) :
    l.find? (fun y => key y == b) = some x ↔ x ∈ l ∧ key x = b := by
  constructor
  · intro h
    exact ⟨List.mem_of_find?_eq_some h, eq_of_beq (List.find?_some h :)⟩
  · rintro ⟨hx, hkey⟩
    have hfound : (l.find? fun y => key y == b).isSome := List.find?_isSome.2 ⟨x, hx, beq_iff_eq.2 hkey⟩
    obtain ⟨y, hy⟩ := Option.isSome_iff_exists.1 hfound
    have hy' : key y = b := eq_of_beq (List.find?_some hy :)
    rw [hy, hinj y (List.mem_of_find?_eq_some hy) x hx (hy'.trans hkey.symm)]

theorem Kind.all_nodup : Kind.all.Nodup := by decide

/-- In a legal numbering a number stands for the kind that has it, and for no other (log 25). -/
theorem KindCodes.kind_eq_some_iff {c : KindCodes} (hc : c.legal = true) (n : Nat) (k : Kind) :
    c.kind n = some k ↔ c.code k = n := by
  have hinj := (List.nodup_map_iff_inj_on Kind.all_nodup).1 (of_decide_eq_true hc)
  rw [KindCodes.kind, find?_key_eq_some_iff hinj]
  exact and_iff_right k.mem_all

/-- A number that is no kind's is unknown (R80). -/
theorem KindCodes.kind_eq_none_iff (c : KindCodes) (n : Nat) : c.kind n = none ↔ ∀ k, c.code k ≠ n := by
  simp only [KindCodes.kind, List.find?_eq_none, Kind.mem_all, true_imp_iff, beq_iff_eq, ne_eq]

theorem KindCodes.standard_legal : KindCodes.standard.legal = true := by decide

theorem KindCodes.standard_code_lt (k : Kind) : KindCodes.standard.code k < 8 := by cases k <;> decide

/-- Settles O8: the default numbering is a legal one, and a legal one is searched as `kind_eq_some_iff` says. -/
theorem kindCodesAreInTheDocumentsOrder : Obligations.KindCodesAreInTheDocumentsOrder := by
  refine ⟨fun n hn => ?_, fun k => ?_, rfl, fun k => ?_, fun c n hc => ⟨fun k => ?_, c.kind_eq_none_iff n⟩⟩
  · exact (KindCodes.standard.kind_eq_none_iff n).2 fun k => ((KindCodes.standard_code_lt k).trans_le hn).ne
  · exact (KindCodes.kind_eq_some_iff KindCodes.standard_legal _ k).2 rfl
  · cases k <;> decide
  · exact (KindCodes.kind_eq_some_iff hc _ k).2 rfl

/-- Under a legal tag table the tag positions of a header hold the tag of one kind of the format, or of none. -/
theorem kindOfTag_eq_some_iff {t : TagTable} (ht : t.legal = true) (f : Format) (h : Half) (k : Kind) :
    kindOfTag t f h = some k ↔ k.format = f ∧ t.tag k = h &&& f.tagMask := by
  obtain ⟨-, h8, h16⟩ := t.legal_iff.1 ht
  have hinj : ∀ k ∈ f.kinds, ∀ k' ∈ f.kinds, t.tag k = t.tag k' → k = k' := fun k hk k' hk' =>
    t.tags_distinct_iff.1 ⟨h8, h16⟩ k k' ((Format.mem_kinds.1 hk).trans (Format.mem_kinds.1 hk').symm)
  rw [kindOfTag, find?_key_eq_some_iff hinj, Format.mem_kinds]

/-! ### A header as tag plus fields (R52, R53, R81) -/

/-- Masking with `p` positions from `k` on and the lowest `q` keeps two fields of a number. -/
theorem and_two_fields (v p k q : Nat) (h : q ≤ k) :
    v &&& ((2 ^ p - 1) <<< k ||| (2 ^ q - 1)) = v / 2 ^ k % 2 ^ p * 2 ^ k + v % 2 ^ q := by
  have hlow : v % 2 ^ q < 2 ^ k := (Nat.mod_lt v (Nat.two_pow_pos q)).trans_le (Nat.pow_le_pow_right (by decide) h)
  rw [Nat.and_or_distrib_left, Machine.and_shiftLeft, Nat.and_two_pow_sub_one_eq_mod, Nat.and_two_pow_sub_one_eq_mod,
    ← Nat.shiftLeft_add_eq_or_of_lt hlow, Nat.shiftRight_eq_div_pow, Nat.shiftLeft_eq]

/-- The tag positions of an 8-bit header are bits 7:6 and bit 0 (R60). -/
theorem toNat_and_tagMask_h8 (h : Half) :
    (h &&& Format.h8.tagMask).toNat = h.toNat / 64 % 4 * 64 + h.toNat % 2 :=
  and_two_fields h.toNat 2 6 1 (by decide)

/-- The tag positions of a 16-bit header are bits 15:14 and bits 1:0 (R60). -/
theorem toNat_and_tagMask_h16 (h : Half) :
    (h &&& Format.h16.tagMask).toNat = h.toNat / 16384 % 4 * 16384 + h.toNat % 4 :=
  and_two_fields h.toNat 2 14 2 (by decide)

/-- R52 in arithmetic: truncation to 8 bits is the remainder by 256. -/
theorem headerH8_eq_ofNat (tag : Half) (r : BitVec 5) :
    headerH8 tag r = BitVec.ofNat 16 ((tag.toNat + 2 * r.toNat) % 256) := by
  apply BitVec.eq_of_toNat_eq
  simp only [headerH8, BitVec.toNat_setWidth, BitVec.toNat_add, BitVec.toNat_shiftLeft, Nat.shiftLeft_eq,
    BitVec.toNat_ofNat]
  omega

/-- R53 in arithmetic. -/
theorem headerH16_eq_ofNat (tag : Half) (r : BitVec 5) (s : BitVec 7) :
    headerH16 tag r s = BitVec.ofNat 16 (tag.toNat + 512 * r.toNat + 4 * s.toNat) := by
  apply BitVec.eq_of_toNat_eq
  simp only [headerH16, BitVec.toNat_setWidth, BitVec.toNat_add, BitVec.toNat_shiftLeft, Nat.shiftLeft_eq,
    BitVec.toNat_ofNat]
  omega

/-- A legal tag stands in the tag positions of its format alone (R6). -/
theorem TagTable.tag_and_tagMask {t : TagTable} (ht : t.legal = true) {k : Kind} {f : Format} (hk : k.format = f) :
    t.tag k &&& f.tagMask = t.tag k := by
  subst hk
  obtain ⟨hoff, -⟩ := t.legal_iff.1 ht
  have hsplit : t.tag k &&& (k.format.tagMask ||| ~~~k.format.tagMask) = t.tag k := by
    rw [BitVec.or_not_self, BitVec.and_allOnes]
  rwa [BitVec.and_or_distrib_left, hoff k, BitVec.or_zero] at hsplit

/-- A value is the 8-bit header of a tag and a field exactly when it is one byte that holds them in their positions. -/
theorem headerH8_eq_iff {tag : Half} (htag : tag &&& Format.h8.tagMask = tag) (r : BitVec 5) (h : Half) :
    headerH8 tag r = h ↔ tag = h &&& Format.h8.tagMask ∧ h.toNat < 256 ∧ (h >>> 1).setWidth 5 = r := by
  have htag' := congrArg BitVec.toNat htag
  have hr := r.isLt
  simp only [BitVec.toNat_eq, headerH8_eq_ofNat, toNat_and_tagMask_h8, BitVec.toNat_ofNat, BitVec.toNat_setWidth,
    BitVec.toNat_ushiftRight, Nat.shiftRight_eq_div_pow] at htag' ⊢
  omega

/-- A value is the 16-bit header of a tag and two fields exactly when it holds them in their positions. -/
theorem headerH16_eq_iff {tag : Half} (htag : tag &&& Format.h16.tagMask = tag) (r : BitVec 5) (s : BitVec 7)
    (h : Half) : headerH16 tag r s = h ↔
      tag = h &&& Format.h16.tagMask ∧ (h >>> 9).setWidth 5 = r ∧ (h >>> 2).setWidth 7 = s := by
  have htag' := congrArg BitVec.toNat htag
  have hr := r.isLt
  have hs := s.isLt
  have hh := h.isLt
  simp only [BitVec.toNat_eq, headerH16_eq_ofNat, toNat_and_tagMask_h16, BitVec.toNat_ofNat, BitVec.toNat_setWidth,
    BitVec.toNat_ushiftRight, Nat.shiftRight_eq_div_pow] at htag' ⊢
  omega

/-! ### Decoding is the converse of encoding (R93) -/

theorem headerOf_of_h8 (t : TagTable) {k : Kind} (hk : k.format = .h8) (reg sub : Byte) :
    headerOf t k reg sub = (headerH8 (t.tag k) (regField reg), 1) := by
  simp only [headerOf, Kind.headerBytes, hk]
  rfl

theorem headerOf_of_h16 (t : TagTable) {k : Kind} (hk : k.format = .h16) (reg sub : Byte) :
    headerOf t k reg sub = (headerH16 (t.tag k) (regField reg) (subField sub), 2) := by
  simp only [headerOf, Kind.headerBytes, hk]
  rfl

/-- A value decodes to an 8-bit kind and a field exactly when it is their header. -/
theorem decodeHeader_h8_eq_some_iff {t : TagTable} (ht : t.legal = true) (h : Half) (k : Kind) (r : BitVec 5) :
    decodeHeader t .h8 h = some (.h8 k r) ↔ k.format = .h8 ∧ headerH8 (t.tag k) r = h := by
  have hdecode : decodeHeader t .h8 h = some (.h8 k r) ↔
      kindOfTag t .h8 h = some k ∧ h.toNat < 256 ∧ (h >>> 1).setWidth 5 = r := by
    by_cases hfits : h.toNat < 256 <;> simp [decodeHeader, hfits]
  rw [hdecode, kindOfTag_eq_some_iff ht, and_assoc]
  exact and_congr_right fun hk => (headerH8_eq_iff (t.tag_and_tagMask ht hk) r h).symm

/-- A value decodes to a 16-bit kind and two fields exactly when it is their header. -/
theorem decodeHeader_h16_eq_some_iff {t : TagTable} (ht : t.legal = true) (h : Half) (k : Kind) (r : BitVec 5)
    (s : BitVec 7) :
    decodeHeader t .h16 h = some (.h16 k r s) ↔ k.format = .h16 ∧ headerH16 (t.tag k) r s = h := by
  have hdecode : decodeHeader t .h16 h = some (.h16 k r s) ↔
      kindOfTag t .h16 h = some k ∧ (h >>> 9).setWidth 5 = r ∧ (h >>> 2).setWidth 7 = s := by
    simp [decodeHeader]
  rw [hdecode, kindOfTag_eq_some_iff ht, and_assoc]
  exact and_congr_right fun hk => (headerH16_eq_iff (t.tag_and_tagMask ht hk) r s h).symm

@[simp] theorem regField_setWidth (r : BitVec 5) : regField (r.setWidth 8) = r := by
  simp [regField]

@[simp] theorem subField_setWidth (s : BitVec 7) : subField (s.setWidth 8) = s := by
  simp [subField]

/-- Settles O9: decoding answers what encodes to the header, in both formats and in both directions. -/
theorem headerRoundTrip : Obligations.HeaderRoundTrip := by
  intro t ht
  refine ⟨fun k reg sub => ?_, fun h k r hd => ?_, fun h k r s hd => ?_⟩
  · cases hk : k.format with
    | h8 =>
      rw [headerOf_of_h8 t hk]
      exact (decodeHeader_h8_eq_some_iff ht _ k _).2 ⟨hk, rfl⟩
    | h16 =>
      rw [headerOf_of_h16 t hk]
      exact (decodeHeader_h16_eq_some_iff ht _ k _ _).2 ⟨hk, rfl⟩
  · obtain ⟨hk, hh⟩ := (decodeHeader_h8_eq_some_iff ht h k r).1 hd
    exact ⟨hk, fun sub => by rw [headerOf_of_h8 t hk, regField_setWidth, hh]⟩
  · obtain ⟨hk, hh⟩ := (decodeHeader_h16_eq_some_iff ht h k r s).1 hd
    exact ⟨hk, by rw [headerOf_of_h16 t hk, regField_setWidth, subField_setWidth, hh]⟩

/-! ### The header at the front of the wire bytes (R66, R92) -/

/-- A header byte with bit 6 clear is decoded as an 8-bit header. -/
theorem decodeWire_of_decodeHeader_h8 {t : TagTable} {h : Half} {d : DecodedHeader} (hbit : h.getLsbD 6 = false)
    (hfits : h.toNat < 256) (hd : decodeHeader t .h8 h = some d) (rest : List Byte) :
    decodeWire t (wireHeader .highFirst (h, 1) ++ rest) = .ok (d, rest) := by
  have hbytes : wireHeader .highFirst (h, 1) = [h.setWidth 8] := rfl
  have hbyte : (h.setWidth 8).setWidth 16 = h := BitVec.setWidth_setWidth_eq_self hfits
  have hfirst : (h.setWidth 8).getLsbD 6 = false := by rw [BitVec.getLsbD_setWidth, hbit, Bool.and_false]
  unfold decodeWire
  simp only [hbytes, List.singleton_append, hfirst, Bool.false_eq_true, if_false, hbyte, hd]

/-- A first header byte with bit 6 set is decoded with the byte after it as a 16-bit header. -/
theorem decodeWire_of_decodeHeader_h16 {t : TagTable} {h : Half} {d : DecodedHeader} (hbit : h.getLsbD 14 = true)
    (hd : decodeHeader t .h16 h = some d) (rest : List Byte) :
    decodeWire t (wireHeader .highFirst (h, 2) ++ rest) = .ok (d, rest) := by
  have hbytes : wireHeader .highFirst (h, 2) = [h.extractLsb' 8 8, h.extractLsb' 0 8] :=
    congrArg List.reverse (Machine.bytesLe_two h)
  have hword : h.extractLsb' 8 8 ++ h.extractLsb' 0 8 = h :=
    (BitVec.extractLsb'_append_extractLsb'_eq_extractLsb' rfl).trans BitVec.extractLsb'_eq_self
  have hfirst : (h.extractLsb' 8 8).getLsbD 6 = true := by simpa using hbit
  unfold decodeWire
  simp only [hbytes, List.cons_append, List.nil_append, hfirst, if_true, hword, hd]

/-- A bit of the tag positions is the same in a header and in its tag. -/
theorem getLsbD_of_tag_eq {tag h m : Half} (htag : tag = h &&& m) {i : Nat} (hm : m.getLsbD i = true) :
    h.getLsbD i = tag.getLsbD i := by
  rw [htag, BitVec.getLsbD_and, hm, Bool.and_true]

/-- The default 8-bit tags leave bit 6 of the first byte clear (R66). -/
theorem standard_tag_bit6 : ∀ k ∈ Format.h8.kinds, (TagTable.standard.tag k).getLsbD 6 = false := by decide

/-- The default 16-bit tags set bit 6 of the first byte, which is bit 14 of the header (R66). -/
theorem standard_tag_bit14 : ∀ k ∈ Format.h16.kinds, (TagTable.standard.tag k).getLsbD 14 = true := by decide

/-- Settles O10: the default tag in a header tells its width (R66), and it decodes to what it encodes (R93). -/
theorem wireHeaderDecodes : Obligations.WireHeaderDecodes := by
  intro k reg sub rest
  have hlegal := TagTable.standard_legal
  cases hk : k.format with
  | h8 =>
    rw [headerOf_of_h8 _ hk]
    obtain ⟨htag, hfits, -⟩ := (headerH8_eq_iff (TagTable.tag_and_tagMask hlegal hk) (regField reg) _).1 rfl
    have hbit := (getLsbD_of_tag_eq htag rfl).trans (standard_tag_bit6 k (Format.mem_kinds.2 hk))
    exact decodeWire_of_decodeHeader_h8 hbit hfits ((decodeHeader_h8_eq_some_iff hlegal _ k _).2 ⟨hk, rfl⟩) rest
  | h16 =>
    rw [headerOf_of_h16 _ hk]
    obtain ⟨htag, -⟩ :=
      (headerH16_eq_iff (TagTable.tag_and_tagMask hlegal hk) (regField reg) (subField sub) _).1 rfl
    have hbit := (getLsbD_of_tag_eq htag rfl).trans (standard_tag_bit14 k (Format.mem_kinds.2 hk))
    exact decodeWire_of_decodeHeader_h16 hbit ((decodeHeader_h16_eq_some_iff hlegal _ k _ _).2 ⟨hk, rfl⟩) rest

/-! ### The header 0 (R94) -/

/-- `reg & 0x1F` is the register field, as a byte (R55). -/
theorem setWidth_regField (reg : Byte) : (regField reg).setWidth 8 = reg &&& 0x1F#8 := by
  apply BitVec.eq_of_toNat_eq
  have hmask : (reg &&& 0x1F#8).toNat = reg.toNat % 32 := Nat.and_two_pow_sub_one_eq_mod reg.toNat 5
  rw [hmask, regField, BitVec.toNat_setWidth, BitVec.toNat_setWidth]
  omega

/-- Header 0 of one byte says that the kind's tag and the register field are 0 (R94). -/
theorem eq_zero_of_headerOf_eq {t : TagTable} (ht : t.legal = true) {k : Kind} {reg sub : Byte}
    (h : headerOf t k reg sub = (0x0000#16, 1)) : t.tag k = 0x0000#16 ∧ reg &&& 0x1F#8 = 0x00#8 := by
  cases hk : k.format with
  | h8 =>
    rw [headerOf_of_h8 t hk] at h
    obtain ⟨hheader, -⟩ := Prod.mk.inj h
    obtain ⟨htag, -, hreg⟩ := (headerH8_eq_iff (t.tag_and_tagMask ht hk) (regField reg) _).1 hheader
    exact ⟨htag, by rw [← setWidth_regField, ← hreg]; rfl⟩
  | h16 =>
    rw [headerOf_of_h16 t hk] at h
    obtain ⟨-, hlength⟩ := Prod.mk.inj h
    cases hlength

theorem Config.tags_legal {c : Config} (h : c.legal = true) : c.tags.legal = true := by
  simp only [Config.legal, Bool.and_eq_true] at h
  obtain ⟨⟨⟨htags, -⟩, -⟩, -⟩ := h
  exact htags

end Sys2Proof

namespace Sys2Proof.Machine

/-! ### What ENCODE_HEADER answers when it is accepted (R81, R90) -/

section
variable {s : State} (hs : s.Ready) {kindRaw : Nat}
include hs

theorem exec_encodeHeader_of_known {k : Kind} (hk : s.cfg.kindCodes.kind kindRaw = some k) (reg sub : Byte) :
    exec (.encodeHeader kindRaw reg sub) s =
      .next (deliver (.ok (.header (headerOf s.cfg.tags k reg sub).1 (headerOf s.cfg.tags k reg sub).2)) s) := by
  refine (whenAccepted_of_ready hs _).trans ?_
  rw [hk]

/-- The select line is high, so the error changes RESULT alone (R136). -/
theorem exec_encodeHeader_of_unknown (hk : s.cfg.kindCodes.kind kindRaw = none) (reg sub : Byte) :
    exec (.encodeHeader kindRaw reg sub) s = .next (deliver (.err .invalidTransactionKind) s) := by
  rw [← raiseError_of_high .invalidTransactionKind (s := s) (by simp [hs.high])]
  refine (whenAccepted_of_ready hs _).trans ?_
  rw [hk]

end

/-! ### The statements about ENCODE_HEADER -/

/-- Settles O7: the two formulas of R81 in arithmetic, and R90's error. -/
theorem encodeHeaderFollowsTheTable : Obligations.EncodeHeaderFollowsTheTable := by
  intro s kindRaw reg sub hs
  refine ⟨fun k hk h8 => ?_, fun k hk h16 => ?_, fun hk => exec_encodeHeader_of_unknown hs hk reg sub⟩
  · rw [exec_encodeHeader_of_known hs hk, headerOf_of_h8 _ h8, headerH8_eq_ofNat]
    rfl
  · rw [exec_encodeHeader_of_known hs hk, headerOf_of_h16 _ h16, headerH16_eq_ofNat]
    rfl

/-- Settles O13: the table's formula for 16-bit kinds, at the document's tag. -/
theorem fullReadHeaderIsTheDocuments : Obligations.FullReadHeaderIsTheDocuments := by
  intro s kindRaw reg sub hs htag hk
  obtain ⟨-, h16, -⟩ := encodeHeaderFollowsTheTable s kindRaw reg sub hs
  have hfull : s.cfg.tags.tag .fullRead = 0x4000#16 := htag
  rw [h16 .fullRead hk rfl, hfull]
  rfl

/-- Settles O14: ShortRead's default header of register 0 is 0, and a header 0 of one byte is tag 0 and field 0. -/
theorem zeroIsALegitimateHeader : Obligations.ZeroIsALegitimateHeader := by
  refine ⟨fun s kindRaw sub hs htags hk => ?_, fun s t kindRaw reg sub hs he hr => ?_⟩
  · rw [exec_encodeHeader_of_known hs hk, htags]
    rfl
  · cases hk : s.cfg.kindCodes.kind kindRaw with
    | none =>
      obtain rfl := Host.Outcome.next.inj ((exec_encodeHeader_of_unknown hs hk reg sub).symm.trans he)
      cases hr
    | some k =>
      obtain rfl := Host.Outcome.next.inj ((exec_encodeHeader_of_known hs hk reg sub).symm.trans he)
      simp only [deliver_result, Option.some.injEq, Result.ok.injEq, Value.header.injEq] at hr
      obtain ⟨hheader, hlength⟩ := hr
      exact ⟨k, rfl, eq_zero_of_headerOf_eq (Config.tags_legal hs.legal) (Prod.ext hheader hlength)⟩

end Sys2Proof.Machine
end

section
/-! PROOF. How a call ends (42_protocol.md R97, R110, R115): what a completed and what a failed exchange leave, for any
request, and from it the statement of each operation of the Register Access Protocol (R100 to R107). -/

namespace Sys2Proof.Machine

/-! ### Where a read's payload goes (R97, R111, R121) -/

/-- What received payload bytes are worth to the caller: the device-ID tuple for GET_DEVICE_ID, no value otherwise. -/
def Dest.value : Dest → List Byte → Value
  | .none, _ => .none
  | .caller _, _ => .none
  | .deviceId, bytes => deviceIdOf bytes

/-- The caller's memory once bytes have gone to the destination. -/
def Dest.store : Dest → List Byte → Memory → Memory
  | .none, _, m => m
  | .caller out, bytes, m => writeBytes m out bytes
  | .deviceId, _, m => m

@[simp] theorem Dest.store_nil (d : Dest) (m : Memory) : d.store [] m = m := by cases d <;> rfl

theorem storeReceived_mem_eq_store (ins : List Byte) (s : State) :
    (storeReceived ins s).mem = s.dest.store ins s.mem := by
  rw [storeReceived_mem]
  cases s.dest <;> rfl

theorem abortCall_mem_eq_store {s : State} (h : s.sel = .low) :
    (abortCall s).mem = s.dest.store (freeBytes s.draws 0 s.payload.length) s.mem := by
  rw [abortCall_mem s h]
  cases s.dest <;> rfl

theorem exchangeValue_eq_value (s : State) : exchangeValue s = s.dest.value s.localBuf := by
  unfold exchangeValue
  cases s.dest <;> rfl

theorem exchangeValue_storeReceived (ins : List Byte) (s : State) :
    exchangeValue (storeReceived ins s) = s.dest.value ins := by
  obtain ⟨-, -, -, -, -, -, -, -, -, hdest, -⟩ := storeReceived_frame ins s
  rw [exchangeValue_eq_value, hdest, storeReceived_localBuf]
  cases s.dest <;> rfl

/-! ### A call in its bracket, and its two ends -/

/-- The call begun in `s` is in its bracket in `u`, and has made these calls since the select. -/
structure State.Opened (s u : State) (calls : List Event) : Prop where
  cfg      : u.cfg = s.cfg
  commands : u.commands = s.commands
  sel      : u.sel = .low
  trace    : u.trace = s.trace ++ [.busBegin s.cfg.busCfg, .selLow] ++ calls

/-- The call begun in `s` has ended in `t`: it left these answers, this result and this memory, and made these calls
between the select and the deselect. -/
structure State.Ends (s t : State) (rest : List BusAnswer) (r : Result) (mem : Memory) (calls : List Event) : Prop where
  ended   : Ended s t
  answers : t.answers = rest
  result  : t.result = some r
  mem     : t.mem = mem
  trace   : t.trace = s.trace ++ [.busBegin s.cfg.busCfg, .selLow] ++ calls ++ [.selHigh, .busEnd]

/-- The wire trace of a call that has ended is one bracket (R116). -/
theorem State.Ends.wireTrace_eq {s t : State} {rest : List BusAnswer} {r : Result} {mem : Memory} {calls : List Event}
    (h : s.Ends t rest r mem calls) {positions : List (Byte × Byte)} (hcalls : wireTrace calls = wireBytes positions) :
    wireTrace t.trace = wireTrace s.trace ++ bracket positions := by
  simp [h.trace, hcalls, bracket_eq]

theorem openExchange_opened (r : Request) (s : State) : s.Opened (openExchange r s) [] where
  cfg      := rfl
  commands := rfl
  sel      := rfl
  trace    := by simp

/-- A failed transfer is one more call in the bracket. -/
theorem State.Opened.transferFailed {s u : State} {calls : List Event} (h : s.Opened u calls) (out ins : List Byte)
    (rest : List BusAnswer) :
    s.Opened (transferFailed out ins rest u) (calls ++ [.transfer out (out.zip ins) false]) where
  cfg      := h.cfg
  commands := h.commands
  sel      := h.sel
  trace    := by rw [transferFailed_trace, h.trace, List.append_assoc]

/-- The failure path of R110. -/
theorem State.Opened.abort {s u : State} {calls : List Event} (h : s.Opened u calls) :
    s.Ends (abortCall u) u.answers (.err .busTransferFailure)
      (u.dest.store (freeBytes u.draws 0 u.payload.length) u.mem) calls := by
  obtain ⟨hcfg, hphase, hsel, hcommands, hanswers, htrace, hresult, -, hquiet⟩ := abortCall_spec u h.sel
  exact ⟨⟨hcfg.trans h.cfg, hcommands.trans h.commands, hphase, hsel, hquiet⟩, hanswers, hresult,
    abortCall_mem_eq_store h.sel, by rw [htrace, h.trace, List.append_assoc _ [Event.selHigh]]; rfl⟩

/-- Steps 8 and 9 of R97. -/
theorem State.Opened.close {s u : State} {calls : List Event} (h : s.Opened u calls) :
    s.Ends (closeStep u) u.answers (.ok (exchangeValue u)) u.mem calls := by
  obtain ⟨hcfg, hphase, hsel, hcommands, hanswers, hmem, htrace, hresult, hquiet⟩ := closeStep_spec u
  exact ⟨⟨hcfg.trans h.cfg, hcommands.trans h.commands, hphase, hsel, hquiet⟩, hanswers, hresult, hmem,
    by rw [htrace, h.trace, List.append_assoc _ [Event.selHigh]]; rfl⟩

/-! ### The transfers of an exchange -/

/-- The header bytes of a request (R98). -/
def Request.header (r : Request) (c : Config) : List Byte := sentHeader c r.kind r.reg r.sub

/-- The header transfer of a request, answered `ok`. -/
def headerCall (r : Request) (s : State) (a : List Byte) : Event :=
  .transfer (r.header s.cfg) ((r.header s.cfg).zip (receivedBytes s.draws 0 (r.header s.cfg) a)) true

/-- The payload transfer of a request, answered `ok`. -/
def payloadCall (r : Request) (s : State) (b : List Byte) : Event :=
  .transfer r.payload (r.payload.zip (receivedBytes (s.draws + 1) 0 r.payload b)) true

theorem afterHeader_opened (r : Request) (a : List Byte) (rest : List BusAnswer) (s : State) :
    s.Opened (afterHeader r a rest s) [headerCall r s a] where
  cfg      := rfl
  commands := rfl
  sel      := rfl
  trace    := by simp [afterHeader, headerCall, Request.header, headerOut_openExchange]

theorem afterPayload_opened (r : Request) (a b : List Byte) (rest : List BusAnswer) (s : State) :
    s.Opened (afterPayload r a b rest s) [headerCall r s a, payloadCall r s b] := by
  obtain ⟨hcfg, -, hsel, hcommands, -, htrace, -⟩ := storeReceived_frame (receivedBytes (s.draws + 1) 0 r.payload b)
    (transferOk r.payload (receivedBytes (s.draws + 1) 0 r.payload b) rest (afterHeader r a (.ok b :: rest) s))
  refine ⟨hcfg, hcommands, hsel, htrace.trans ?_⟩
  rw [transferOk_trace, (afterHeader_opened r a (.ok b :: rest) s).trace, List.append_assoc]
  rfl

/-! ### The four ways an exchange ends -/

theorem headerFails_ends (r : Request) (s : State) (g : List Byte) (rest : List BusAnswer) :
    s.Ends (abortCall (transferFailed (headerOut (openExchange r s)) g rest (openExchange r s))) rest
      (.err .busTransferFailure) (r.dest.store (freeBytes s.draws 0 r.payload.length) s.mem)
      [.transfer (r.header s.cfg) ((r.header s.cfg).zip g) false] :=
  ((openExchange_opened r s).transferFailed _ g rest).abort

theorem payloadFails_ends (r : Request) (s : State) (a g : List Byte) (rest : List BusAnswer) :
    s.Ends (abortCall (transferFailed r.payload g rest (afterHeader r a (.fail g :: rest) s))) rest
      (.err .busTransferFailure) (r.dest.store (freeBytes (s.draws + 1) 0 r.payload.length) s.mem)
      [headerCall r s a, .transfer r.payload (r.payload.zip g) false] :=
  ((afterHeader_opened r a (.fail g :: rest) s).transferFailed _ g rest).abort

theorem headerOnly_ends (r : Request) (s : State) (a : List Byte) (rest : List BusAnswer) :
    s.Ends (closeStep (payloadDone (afterHeader r a rest s))) rest (.ok (r.dest.value [])) s.mem
      [headerCall r s a] := by
  obtain ⟨hcfg, hcommands, hsel, htrace⟩ := afterHeader_opened r a rest s
  have hopened : s.Opened (payloadDone (afterHeader r a rest s)) [headerCall r s a] := ⟨hcfg, hcommands, hsel, htrace⟩
  have hvalue : exchangeValue (payloadDone (afterHeader r a rest s)) = r.dest.value [] := exchangeValue_eq_value _
  exact hvalue ▸ hopened.close

theorem completes_ends (r : Request) (s : State) (a b : List Byte) (rest : List BusAnswer) :
    s.Ends (closeStep (afterPayload r a b rest s)) rest
      (.ok (r.dest.value (receivedBytes (s.draws + 1) 0 r.payload b)))
      (r.dest.store (receivedBytes (s.draws + 1) 0 r.payload b) s.mem) [headerCall r s a, payloadCall r s b] := by
  obtain ⟨hended, hanswers, hresult, hmem, htrace⟩ := (afterPayload_opened r a b rest s).close
  obtain ⟨-, -, -, -, hrest, -⟩ := storeReceived_frame (receivedBytes (s.draws + 1) 0 r.payload b)
    (transferOk r.payload (receivedBytes (s.draws + 1) 0 r.payload b) rest (afterHeader r a (.ok b :: rest) s))
  refine ⟨hended, hanswers.trans hrest, hresult.trans ?_, hmem.trans (storeReceived_mem_eq_store _ _), htrace⟩
  exact congrArg (some ∘ Result.ok) (exchangeValue_storeReceived _ _)

/-! ### The wire of an answered transfer (R22, R96) -/

theorem onWire_headerCall {r : Request} {s : State} {a : List Byte} (h : a.length = (r.header s.cfg).length) :
    (headerCall r s a).onWire = wireBytes ((r.header s.cfg).zip a) := by
  rw [headerCall, receivedBytes_of_length h, onWire_transfer]

theorem onWire_payloadCall {r : Request} {s : State} {b : List Byte} (h : b.length = r.payload.length) :
    (payloadCall r s b).onWire = wireBytes (r.payload.zip b) := by
  rw [payloadCall, receivedBytes_of_length h, onWire_transfer]

/-! ### EXCHANGE meets its promise (R97) -/

/-- An operation on the bus whose buffer is long enough is what R97 promises, for any value, effect and spoiled
addresses that its destination accounts for. -/
theorem exchangeSpec_of_request {i : Instr} {s : State} {r : Request} {value : List Byte → Value}
    {stored : List Byte → State → Prop} {spoiled : Nat → Prop} (hs : s.Ready) (hr : requestOf s i = some r)
    (hlong : r.tooShort = false)
    (hvalue : ∀ bytes, bytes.length = r.payload.length → r.dest.value bytes = value bytes)
    (hstored : ∀ bytes t, bytes.length = r.payload.length → t.mem = r.dest.store bytes s.mem → stored bytes t)
    (hspoiled : ∀ bytes a, bytes.length = r.payload.length → ¬ spoiled a →
      (r.dest.store bytes s.mem).read a = s.mem.read a) :
    ExchangeSpec i s (r.header s.cfg) r.payload value stored spoiled := by
  have hnext {t : State} (ht : runExchange (openExchange r s) = t) : exec i s = .next t := by
    rw [exec_eq_exchange hr, exchange_of_ready hs, beginExchange_open hlong, ht]
  have hfree (d : Nat) : (freeBytes d 0 r.payload.length).length = r.payload.length := freeBytes_length d 0 _
  constructor
  case headerOnly =>
    intro hp a rest ha hla
    have h := headerOnly_ends r s a rest
    have hnil : ([] : List Byte).length = r.payload.length := by rw [hp]
    exact ⟨_, hnext (runExchange_headerOnly r s a rest hp ha), h.ended, h.answers, hvalue [] hnil ▸ h.result,
      hstored [] _ hnil (h.mem.trans (r.dest.store_nil _).symm), h.wireTrace_eq (by simp [onWire_headerCall hla])⟩
  case completes =>
    intro hp a b rest ha hla hlb
    have h := completes_ends r s a b rest
    rw [receivedBytes_of_length hlb] at h
    exact ⟨_, hnext (runExchange_completes r s a b rest hp ha), h.ended, h.answers, hvalue b hlb ▸ h.result,
      hstored b _ hlb h.mem, h.wireTrace_eq (by simp [onWire_headerCall hla, onWire_payloadCall hlb])⟩
  case headerFails =>
    intro g rest ha
    have h := headerFails_ends r s g rest
    exact ⟨_, hnext (runExchange_headerFails r s g rest ha), h.ended, h.answers, h.result,
      fun a hopen => h.mem ▸ hspoiled _ a (hfree _) hopen, h.wireTrace_eq (by simp)⟩
  case payloadFails =>
    intro hp a g rest ha hla
    have h := payloadFails_ends r s a g rest
    exact ⟨_, hnext (runExchange_payloadFails r s a g rest hp ha), h.ended, h.answers, h.result,
      fun a hopen => h.mem ▸ hspoiled _ a (hfree _) hopen, h.wireTrace_eq (by simp [onWire_headerCall hla])⟩

/-- An operation that stores nothing: a command, a write or a masked write. -/
theorem exchangeSpec_of_dest_none {i : Instr} {s : State} {r : Request} (hs : s.Ready) (hr : requestOf s i = some r)
    (hlong : r.tooShort = false) (hdest : r.dest = .none) :
    ExchangeSpec i s (r.header s.cfg) r.payload (fun _ => .none) (keepsMemory s) (fun _ => False) :=
  exchangeSpec_of_request hs hr hlong (fun _ _ => by rw [hdest]; rfl)
    (fun _ _ _ hmem => by rw [hdest] at hmem; exact hmem) (fun _ _ _ _ => by rw [hdest]; rfl)

/-- A read into a caller's buffer (R101, R103). -/
theorem exchangeSpec_of_dest_caller {i : Instr} {s : State} {r : Request} {out : Buf} (hs : s.Ready)
    (hwf : s.mem.wf = true) (hr : requestOf s i = some r) (hlong : r.tooShort = false) (hdest : r.dest = .caller out) :
    ExchangeSpec i s (r.header s.cfg) r.payload (fun _ => .none) (readsInto s out r.payload.length)
      (fun a => ∃ j, j < r.payload.length ∧ a = bufAddr out j) := by
  refine exchangeSpec_of_request hs hr hlong (fun _ _ => by rw [hdest]; rfl) ?_ ?_
  · intro bytes t hlen hmem
    rw [hdest] at hmem
    rw [readsInto, hmem, ← hlen]
    exact ⟨readBytes_writeBytes _ _ _ hwf, writeBytes_read_other _ _ _⟩
  · intro bytes a hlen hopen
    rw [hdest]
    exact writeBytes_read_other _ _ _ a fun j hj ha => hopen ⟨j, hlen ▸ hj, ha⟩

/-- A buffer too short ends the exchange before the bus is touched (R109). -/
theorem exchange_of_short {r : Request} {s : State} (hs : s.Ready) (hshort : r.tooShort = true) :
    exchange r s = .next (endCall (deliver (.err .bufferTooShort) (latchOperands r (clearResult s)))) := by
  have hhigh : (latchOperands r (clearResult s)).sel ≠ .low := by simp [hs.high]
  rw [exchange_of_ready hs, beginExchange_short hshort, raiseError_of_high _ hhigh]

theorem tooShortIsAnError_of_request {i : Instr} {s : State} {r : Request} (hs : s.Ready) (hr : requestOf s i = some r)
    (hshort : r.tooShort = true) : tooShortIsAnError i s :=
  ⟨_, (exec_eq_exchange hr).trans (exchange_of_short hs hshort),
    ⟨rfl, rfl, hs.idle, hs.high, rfl, rfl, rfl⟩, rfl, rfl, rfl, rfl⟩

/-! ### The buffer check of each request (R109) -/

theorem tooShort_readRequest (c : Config) (k : Kind) (reg sub : Byte) (out : Buf) (n : Nat) :
    (readRequest c k reg sub out n).tooShort = decide (out.len < n) := by simp [readRequest, Request.tooShort]

theorem tooShort_writeRequest (m : Memory) (k : Kind) (reg sub : Byte) (buffer : Buf) (n : Nat) :
    (writeRequest m k reg sub buffer n).tooShort = decide (buffer.len < n) := by simp [writeRequest, Request.tooShort]

/-! ### The operations without masks (R100 to R104) -/

/-- Settles O23: the exchange of `commandRequest`; only the register field of the command reaches its header (R55). -/
theorem fastCommandSendsItsHeader : Obligations.FastCommandSendsItsHeader := fun s cmd hs =>
  ⟨exchangeSpec_of_dest_none (r := commandRequest cmd) hs rfl rfl rfl,
    (registerBytesAreTruncatedSilently s 0 cmd 0#8 0#8).2.2 .fastCommand⟩

/-- A read of either format is the exchange of its `readRequest`. -/
theorem exchangeSpec_of_read {i : Instr} {s : State} {k : Kind} {reg sub : Byte} {out : Buf} {n : Nat} (hs : s.Ready)
    (hwf : s.mem.wf = true) (hr : requestOf s i = some (readRequest s.cfg k reg sub out n)) :
    (n ≤ out.len →
      ExchangeSpec i s (sentHeader s.cfg k reg sub) (List.replicate n s.cfg.readFill) (fun _ => .none)
        (readsInto s out n) (fun a => ∃ j, j < n ∧ a = bufAddr out j)) ∧
    (out.len < n → tooShortIsAnError i s) := by
  have hshort := tooShort_readRequest s.cfg k reg sub out n
  constructor
  · intro hn
    have hspec := exchangeSpec_of_dest_caller hs hwf hr (hshort.trans (by simp [hn])) rfl
    have hlen : (readRequest s.cfg k reg sub out n).payload.length = n := List.length_replicate
    rwa [hlen] at hspec
  · intro hn
    exact tooShortIsAnError_of_request hs hr (hshort.trans (by simp [hn]))

/-- A write of either format is the exchange of its `writeRequest`. -/
theorem exchangeSpec_of_write {i : Instr} {s : State} {k : Kind} {reg sub : Byte} {buffer : Buf} {n : Nat}
    (hs : s.Ready) (hr : requestOf s i = some (writeRequest s.mem k reg sub buffer n)) :
    (n ≤ buffer.len →
      ExchangeSpec i s (sentHeader s.cfg k reg sub) (readBytes s.mem buffer n) (fun _ => .none) (keepsMemory s)
        (fun _ => False)) ∧
    (buffer.len < n → tooShortIsAnError i s) := by
  have hshort := tooShort_writeRequest s.mem k reg sub buffer n
  exact ⟨fun hn => exchangeSpec_of_dest_none hs hr (hshort.trans (by simp [hn])) rfl,
    fun hn => tooShortIsAnError_of_request hs hr (hshort.trans (by simp [hn]))⟩

/-- Settles O24: SHORT_READ is the exchange of a `readRequest`. -/
theorem shortReadFillsTheBuffer : Obligations.ShortReadFillsTheBuffer :=
  fun _ _ _ _ hs hwf => exchangeSpec_of_read hs hwf rfl

/-- Settles O25: SHORT_WRITE is the exchange of a `writeRequest`. -/
theorem shortWriteSendsTheBuffer : Obligations.ShortWriteSendsTheBuffer :=
  fun _ _ _ _ hs => exchangeSpec_of_write hs rfl

/-- Settles O26: FULL_READ is the exchange of a `readRequest`. -/
theorem fullReadFillsTheBuffer : Obligations.FullReadFillsTheBuffer :=
  fun _ _ _ _ _ hs hwf => exchangeSpec_of_read hs hwf rfl

/-- Settles O27: FULL_WRITE is the exchange of a `writeRequest`. -/
theorem fullWriteSendsTheBuffer : Obligations.FullWriteSendsTheBuffer :=
  fun _ _ _ _ _ hs => exchangeSpec_of_write hs rfl

/-! ### The masked writes (R105 to R107) -/

/-- The bytes of a word from bit `start` on: the lowest one, then the rest. -/
theorem bytesLe_shiftRight_succ {w : Nat} (x : BitVec w) (start k : Nat) :
    bytesLe (x.toNat >>> start) (k + 1) = x.extractLsb' start 8 :: bytesLe (x.toNat >>> (start + 8)) k := by
  rw [bytesLe, Nat.shiftRight_add, Nat.shiftRight_eq_div_pow _ 8]
  rfl

theorem bytesLe_four (x : MaskWord) :
    bytesLe x.toNat 4 = [x.extractLsb' 0 8, x.extractLsb' 8 8, x.extractLsb' 16 8, x.extractLsb' 24 8] := by
  rw [← Nat.shiftRight_zero (n := x.toNat), bytesLe_shiftRight_succ, bytesLe_shiftRight_succ, bytesLe_shiftRight_succ,
    bytesLe_shiftRight_succ]
  rfl

/-- A mask keeps its value in the 32-bit latch (R15). -/
theorem toNat_maskWord {w : Nat} (x : BitVec w) (hw : w ≤ 32) : (x.setWidth 32 : MaskWord).toNat = x.toNat :=
  BitVec.toNat_setWidth_of_le hw

/-- A masked write sends the bytes of its two masks, one whole mask after the other. -/
theorem exchangeSpec_of_masks {i : Instr} {s : State} {k : Kind} {reg sub : Byte} {a o : MaskWord} {out : List Byte}
    (hs : s.Ready) (hr : requestOf s i = some (maskRequest s.cfg k reg sub a o))
    (hout : maskPayload s.cfg.maskOrder k.maskBytes a.toNat o.toNat = out) :
    ExchangeSpec i s (sentHeader s.cfg k reg sub) out (fun _ => .none) (keepsMemory s) (fun _ => False) := by
  subst hout
  exact exchangeSpec_of_dest_none hs hr rfl rfl

/-- The chip's masked write byte by byte is its masked write of the whole word (R44). -/
theorem chipMaskedBytes_bytesLe (v a o k : Nat) :
    chipMaskedBytes (bytesLe v k) (bytesLe a k) (bytesLe o k) = bytesLe (v &&& a ||| o) k := by
  induction k generalizing v a o with
  | zero => rfl
  | succ k ih =>
    have hbyte : chipMaskedValue (BitVec.ofNat 8 v) (BitVec.ofNat 8 a) (BitVec.ofNat 8 o) =
        BitVec.ofNat 8 (v &&& a ||| o) := by
      rw [chipMaskedValue, BitVec.ofNat_or, BitVec.ofNat_and]
    have hrest : (v &&& a ||| o) / 256 = v / 256 &&& a / 256 ||| o / 256 := by
      rw [Nat.or_div_two_pow (n := 8), Nat.and_div_two_pow (n := 8)]
    rw [bytesLe, bytesLe, bytesLe, chipMaskedBytes, ih, hbyte, bytesLe, hrest]

/-- Settles O28: the masks of MASKED_WRITE_1 are their own bytes under either order. -/
theorem maskedWrite1SendsBothMasks : Obligations.MaskedWrite1SendsBothMasks := by
  intro s reg sub a o hs
  refine ⟨exchangeSpec_of_masks hs rfl ?_, fun _ => rfl⟩
  rw [toNat_maskWord a (by decide), toNat_maskWord o (by decide)]
  cases s.cfg.maskOrder <;> simp [maskPayload, bytesOf, bytesBe, bytesLe, Kind.maskBytes]

/-- Settles O29: two bytes of each mask, in the order MASK_BYTE_ORDER names. -/
theorem maskedWrite2SendsBothMasks : Obligations.MaskedWrite2SendsBothMasks := by
  intro s reg sub a o hs
  refine ⟨fun horder => exchangeSpec_of_masks hs rfl ?_, fun horder => exchangeSpec_of_masks hs rfl ?_, fun old => ?_⟩
  · rw [horder, toNat_maskWord a (by decide), toNat_maskWord o (by decide)]
    exact congrArg₂ (· ++ ·) (bytesLe_two a) (bytesLe_two o)
  · rw [horder, toNat_maskWord a (by decide), toNat_maskWord o (by decide)]
    exact congrArg₂ (·.reverse ++ ·.reverse) (bytesLe_two a) (bytesLe_two o)
  · rw [← bytesLe_two, ← bytesLe_two, chipMaskedBytes_bytesLe, BitVec.toNat_or, BitVec.toNat_and]

/-- Settles O30: four bytes of each mask, in the order MASK_BYTE_ORDER names. -/
theorem maskedWrite4SendsBothMasks : Obligations.MaskedWrite4SendsBothMasks := by
  intro s reg sub a o hs
  refine ⟨fun horder => exchangeSpec_of_masks hs rfl ?_, fun horder => exchangeSpec_of_masks hs rfl ?_, fun old => ?_⟩
  · rw [horder]
    exact congrArg₂ (· ++ ·) (bytesLe_four a) (bytesLe_four o)
  · rw [horder]
    exact congrArg₂ (·.reverse ++ ·.reverse) (bytesLe_four a) (bytesLe_four o)
  · rw [← bytesLe_four, ← bytesLe_four, chipMaskedBytes_bytesLe, BitVec.toNat_or, BitVec.toNat_and]

end Sys2Proof.Machine
end

section
/-! PROOF. The exchange as a whole (42_protocol.md R95 to R119): the request of each operation, the transition table of
PHASE (R112), and what every run of an exchange puts on the bus (R97, R116, R118). -/

namespace Sys2Proof.Machine

/-! ### The request of an operation -/

theorem txBufRequest_buffer (c : Config) (m : Memory) (buffer : Buf) (n : Nat) :
    (txBufRequest c m buffer n).buffer = some buffer := by
  unfold txBufRequest
  split <;> rfl

theorem txBufRequest_payload (c : Config) (m : Memory) (buffer : Buf) (n : Nat) :
    (txBufRequest c m buffer n).payload = readBytes m buffer (txCount n) := by
  unfold txBufRequest
  split <;> rfl

/-- An operation with a caller buffer and a count asks for a payload of so many bytes, with that buffer involved. -/
theorem requestOf_of_payloadBuffer {i : Instr} {b : Buf} {n : Nat} {sent : Bool} (s : State)
    (h : payloadBuffer i = some (b, n, sent)) :
    ∃ r, requestOf s i = some r ∧ r.buffer = some b ∧ r.payload.length = n := by
  cases i <;> cases h
  case shortRead => exact ⟨_, rfl, rfl, List.length_replicate⟩
  case fullRead => exact ⟨_, rfl, rfl, List.length_replicate⟩
  case shortWrite => exact ⟨_, rfl, rfl, readBytes_length _ _ _⟩
  case fullWrite => exact ⟨_, rfl, rfl, readBytes_length _ _ _⟩
  case writeTxBuffer => exact ⟨_, rfl, txBufRequest_buffer _ _ _ _, by rw [txBufRequest_payload, readBytes_length]⟩

theorem requestOf_buffer_none {i : Instr} {s : State} {r : Request} (h : payloadBuffer i = none)
    (hr : requestOf s i = some r) : r.buffer = none := by
  cases i <;> cases h <;> cases hr <;> rfl

/-- The buffer check of R109 compares the length of the buffer with the count. -/
theorem exists_request_tooShort_eq {i : Instr} {b : Buf} {n : Nat} {sent : Bool} (s : State)
    (h : payloadBuffer i = some (b, n, sent)) :
    ∃ r, requestOf s i = some r ∧ r.tooShort = decide (b.len < n) := by
  obtain ⟨r, hr, hbuffer, hlen⟩ := requestOf_of_payloadBuffer s h
  exact ⟨r, hr, by rw [Request.tooShort, hbuffer, hlen]⟩

/-- Where every buffer is as long as its count, no request fails the check of R109. -/
theorem requestOf_not_tooShort {i : Instr} {s : State} {r : Request}
    (hlong : ∀ b n sent, payloadBuffer i = some (b, n, sent) → n ≤ b.len) (hr : requestOf s i = some r) :
    r.tooShort = false := by
  cases h : payloadBuffer i with
  | none => rw [Request.tooShort, requestOf_buffer_none h hr]
  | some p =>
    obtain ⟨r', hr', hshort⟩ := exists_request_tooShort_eq s h
    cases hr.symm.trans hr'
    exact hshort.trans (decide_eq_false (Nat.not_lt.2 (hlong _ _ _ h)))

theorem maskRequest_payload_ne_nil (c : Config) {k : Kind} (hk : k.maskBytes ≠ 0) (reg sub : Byte) (a o : MaskWord) :
    (maskRequest c k reg sub a o).payload ≠ [] := by
  have hlen : (maskRequest c k reg sub a o).payload.length = 2 * k.maskBytes := maskPayload_length _ _ _ _
  exact List.ne_nil_of_length_pos (by omega)

/-- An operation that has a payload (R59) asks for at least one byte. -/
theorem requestOf_payload_ne_nil {i : Instr} {s : State} {r : Request} (h : sendsPayload i)
    (hr : requestOf s i = some r) : r.payload ≠ [] := by
  unfold sendsPayload at h
  split at h
  next b n sent hb =>
    obtain ⟨r', hr', -, hlen⟩ := requestOf_of_payloadBuffer s hb
    cases hr.symm.trans hr'
    exact List.ne_nil_of_length_pos (by omega)
  next hb =>
    cases i <;> cases hb <;> cases hr
    case fastCommand => exact absurd rfl h
    case maskedWrite1 => exact maskRequest_payload_ne_nil _ (by decide) _ _ _ _
    case maskedWrite2 => exact maskRequest_payload_ne_nil _ (by decide) _ _ _ _
    case maskedWrite4 => exact maskRequest_payload_ne_nil _ (by decide) _ _ _ _
    case getDeviceId => exact List.cons_ne_nil _ _

/-- The header an exchange sends is the encoding of its operation (R60, R62). -/
theorem encode_eq_header (s : State) (i : Instr) : encode s.cfg i = (requestOf s i).map (·.header s.cfg) := by
  cases i
  case writeTxBuffer =>
    simp only [encode, Instr.headerFields, requestOf, txBufRequest]
    cases s.cfg.txBufMode <;> rfl
  all_goals rfl

theorem exists_request_of_encode {i : Instr} {s : State} {hdr : List Byte} (h : encode s.cfg i = some hdr) :
    ∃ r, requestOf s i = some r ∧ r.header s.cfg = hdr := by
  rw [encode_eq_header] at h
  exact Option.map_eq_some_iff.1 h

theorem readBytes_congr {m m' : Memory} {b : Buf} {n : Nat} (h : ∀ j, j < n → readBuf m b j = readBuf m' b j) :
    readBytes m b n = readBytes m' b n :=
  readBytesFrom_congr fun j _ hj => h j (by omega)

/-- The request of an operation depends on the parameters and on the bytes it sends alone (R118). -/
theorem requestOf_congr {i : Instr} {s s' : State} (hcfg : s.cfg = s'.cfg)
    (hbytes : ∀ b n, payloadBuffer i = some (b, n, true) → ∀ j, j < n → readBuf s.mem b j = readBuf s'.mem b j) :
    requestOf s i = requestOf s' i := by
  have hread {b : Buf} {n : Nat} (h : payloadBuffer i = some (b, n, true)) :
      readBytes s.mem b n = readBytes s'.mem b n := readBytes_congr (hbytes b n h)
  cases i
  case shortWrite => simp only [requestOf, writeRequest, hread rfl]
  case fullWrite => simp only [requestOf, writeRequest, hread rfl]
  case writeTxBuffer => simp only [requestOf, txBufRequest, writeRequest, hcfg, hread rfl]
  all_goals simp only [requestOf, hcfg]

/-! ### The operations that do not reach the bus -/

/-- Returning a result outside an exchange (R18, R135). -/
def respond : Result → State → State
  | .ok v, s => deliver (.ok v) s
  | .err e, s => raiseError e s

theorem respond_result (r : Result) (s : State) : (respond r s).result = some r := by cases r <;> rfl

theorem raiseError_phase_of_idle (e : ErrorKind) {s : State} (h : s.phase = .idle) :
    (raiseError e s).phase = .idle := by
  unfold raiseError
  split
  · rfl
  · exact h

theorem respond_phase_of_idle (r : Result) {s : State} (h : s.phase = .idle) : (respond r s).phase = .idle := by
  cases r with
  | ok v => exact h
  | err e => exact raiseError_phase_of_idle e h

/-- What an operation that does not reach the bus answers, said once: one result, which depends on its operands, the
parameters and the memory alone; BufferTooShort is BITS_IN_BUFFER's only (R129). -/
theorem exec_local_respond {i : Instr} {s t : State} (hr : requestOf s i = none) (h : exec i s = .next t) :
    s.phase = .idle ∧ ∃ r, (r = .err .bufferTooShort → i.op = .bitsInBuffer) ∧
      ∀ u : State, u.cfg = s.cfg → u.mem = s.mem → u.phase = .idle → exec i u = .next (respond r u) := by
  have haccept {e : Host.Outcome State Fault Refusal} {u : State} (hl : s.cfg.legal = true) (hcfg : u.cfg = s.cfg)
      (hidle : u.phase = .idle) : whenAccepted u e = e := whenAccepted_of_legal_idle (hcfg ▸ hl) hidle e
  cases i <;> cases hr
  case bitAt value position =>
    obtain ⟨hl, hp, he⟩ := whenAccepted_next h
    split at he <;> cases he
    next hc =>
      refine ⟨hp, .ok (.scalar (bitOf value position)), nofun, fun u hcfg _ hu => (haccept hl hcfg hu).trans ?_⟩
      rw [hcfg, if_neg hc]
      rfl
  case bitsInRange value low high =>
    obtain ⟨hl, hp, he⟩ := whenAccepted_next h
    split at he <;> cases he
    next hc =>
      refine ⟨hp, .ok (.scalar (bitsOf value low high)), nofun, fun u hcfg _ hu => (haccept hl hcfg hu).trans ?_⟩
      rw [hcfg, if_pos hc]
      rfl
  case bitsInBuffer buffer low high =>
    obtain ⟨hl, hp, he⟩ := whenAccepted_next h
    split at he
    next hc =>
      split at he
      next hshort =>
        refine ⟨hp, .err .bufferTooShort, fun _ => rfl, fun u hcfg _ hu => (haccept hl hcfg hu).trans ?_⟩
        rw [hcfg, if_pos hc, if_pos hshort]
        rfl
      next hlong =>
        refine ⟨hp, .ok (.scalar (fieldOf (readBytes s.mem buffer (bytesNeeded high)) low high)), nofun,
          fun u hcfg hmem hu => (haccept hl hcfg hu).trans ?_⟩
        rw [hcfg, if_pos hc, if_neg hlong, hmem]
        rfl
    · cases he
  case encodeHeader kindRaw reg sub =>
    obtain ⟨hl, hp, he⟩ := whenAccepted_next h
    cases hk : s.cfg.kindCodes.kind kindRaw with
    | none =>
      refine ⟨hp, .err .invalidTransactionKind, nofun, fun u hcfg _ hu => (haccept hl hcfg hu).trans ?_⟩
      rw [hcfg, hk]
      rfl
    | some k =>
      refine ⟨hp, .ok (.header (headerOf s.cfg.tags k reg sub).1 (headerOf s.cfg.tags k reg sub).2), nofun,
        fun u hcfg _ hu => (haccept hl hcfg hu).trans ?_⟩
      rw [hcfg, hk]
      rfl
  case writeTxbOffset => cases h
  case readTxbOffset => cases h

/-! ### The transition table of PHASE (R112) -/

/-- A codec or encoder operation does not move PHASE. -/
theorem exec_local_phase {i : Instr} {s t : State} (hr : requestOf s i = none) (h : exec i s = .next t) :
    t.phase = s.phase := by
  obtain ⟨hp, r, -, hrespond⟩ := exec_local_respond hr h
  cases h.symm.trans (hrespond s rfl rfl hp)
  rw [respond_phase_of_idle r hp, hp]

/-- Settles O39: each row is the lemma of `advance` for its phase and the environment's answer. -/
theorem phaseTransitionTable : Obligations.PhaseTransitionTable := by
  refine ⟨?idleLong, ?idleShort, ?codec, fun _ => advance_idle, ?headerOk, ?headerFail, ?payloadEmpty, ?payloadOk,
    ?payloadFail, ?close, ?wait⟩
  case idleLong =>
    intro r s hs hlong
    exact ⟨by rw [exchange_of_ready hs, beginExchange_open hlong], rfl, rfl, rfl⟩
  case idleShort =>
    intro r s hs hshort
    exact ⟨_, exchange_of_short hs hshort, hs.idle, hs.high, rfl, rfl⟩
  case codec =>
    intro i s t hi h
    exact exec_local_phase (requestOf_eq_none_of_local s hi) h
  case headerOk =>
    intro s a rest hp ha
    rw [advance_selected hp, headerStep_ok ha]
    exact ⟨rfl, rfl⟩
  case headerFail =>
    intro s g rest hp hsel ha
    rw [advance_selected hp, headerStep_fail ha]
    obtain ⟨-, hphase, hhigh, -⟩ := abortCall_spec (transferFailed (headerOut s) g rest s) hsel
    exact ⟨hphase, hhigh⟩
  case payloadEmpty =>
    intro s hp hn
    rw [advance_headerSent hp, payloadStep_empty hn]
    exact ⟨rfl, rfl⟩
  case payloadOk =>
    intro s b rest hp hn ha
    rw [advance_headerSent hp, payloadStep_ok hn ha]
    obtain ⟨-, -, hsel, -⟩ := storeReceived_frame (receivedBytes s.draws 0 s.payload b)
      (transferOk s.payload (receivedBytes s.draws 0 s.payload b) rest s)
    exact ⟨rfl, hsel⟩
  case payloadFail =>
    intro s g rest hp hn hsel ha
    rw [advance_headerSent hp, payloadStep_fail hn ha]
    obtain ⟨-, hphase, hhigh, -⟩ := abortCall_spec (transferFailed s.payload g rest s) hsel
    exact ⟨hphase, hhigh⟩
  case close =>
    intro s hp
    rw [advance_payloadTransferred hp]
    exact ⟨rfl, rfl⟩
  case wait =>
    rintro s ha (hp | ⟨hp, hn⟩)
    · rw [advance_selected hp, headerStep_waits ha]
    · rw [advance_headerSent hp, payloadStep_waits hn ha]

/-! ### An exchange waits, fails or succeeds -/

/-- The call begun in `s` has ended in `t` with a failed transfer, with nothing but bytes in its bracket. -/
def State.Fails (s t : State) : Prop :=
  ∃ rest mem calls positions, s.Ends t rest (.err .busTransferFailure) mem calls ∧ wireTrace calls = wireBytes positions

/-- The call begun in `s` has ended in `t` with both of its transfers answered, or with the header transfer where
there is no payload. -/
def Request.Succeeds (r : Request) (s t : State) : Prop :=
  ∃ rest v mem a payload, s.Ends t rest (.ok v) mem (headerCall r s a :: payload) ∧
    ((r.payload = [] ∧ payload = []) ∨ ∃ b, payload = [payloadCall r s b])

/-- What a run of an exchange leaves, by RESULT: it waits, or it has ended with BusTransferFailure or with `Ok`. -/
theorem runExchange_waits_or_ends (r : Request) (s : State) :
    ((runExchange (openExchange r s)).phase ≠ .idle ∧ (runExchange (openExchange r s)).result = none) ∨
      s.Fails (runExchange (openExchange r s)) ∨ r.Succeeds s (runExchange (openExchange r s)) := by
  obtain ⟨-, h⟩ | ⟨g, rest, -, h⟩ | ⟨a, rest, hp, -, h⟩ | ⟨a, -, -, h⟩ | ⟨a, g, rest, -, -, h⟩ |
    ⟨a, b, rest, -, -, h⟩ := runExchange_cases r s <;> rw [h]
  · exact .inl ⟨nofun, rfl⟩
  · exact .inr (.inl ⟨_, _, _, _, headerFails_ends r s g rest, by simp; rfl⟩)
  · exact .inr (.inr ⟨_, _, _, a, [], headerOnly_ends r s a rest, .inl ⟨hp, rfl⟩⟩)
  · exact .inl ⟨nofun, rfl⟩
  · exact .inr (.inl ⟨_, _, _, (r.header s.cfg).zip (receivedBytes s.draws 0 (r.header s.cfg) a) ++ r.payload.zip g,
      payloadFails_ends r s a g rest, by simp [headerCall]⟩)
  · exact .inr (.inr ⟨_, _, _, a, [_], completes_ends r s a b rest, .inr ⟨b, rfl⟩⟩)

/-- An exchange that has ended found its buffer too short, failed or succeeded. -/
theorem exchange_ended {r : Request} {s t : State} (hs : s.Ready) (h : exchange r s = .next t)
    (hidle : t.phase = .idle) :
    (t.result = some (.err .bufferTooShort) ∧ t.trace = s.trace) ∨ s.Fails t ∨ r.Succeeds s t := by
  cases hshort : r.tooShort with
  | true =>
    cases h.symm.trans (exchange_of_short hs hshort)
    exact .inl ⟨rfl, rfl⟩
  | false =>
    obtain ⟨-, -, rfl⟩ := exchange_next h
    rw [beginExchange_open hshort] at hidle ⊢
    obtain ⟨hbusy, -⟩ | hends := runExchange_waits_or_ends r s
    · exact absurd hidle hbusy
    · exact .inr hends

/-- An exchange that has ended with `Ok` has succeeded. -/
theorem exchange_succeeds {r : Request} {s t : State} {v : Value} (hs : s.Ready) (h : exchange r s = .next t)
    (hidle : t.phase = .idle) (hok : t.result = some (.ok v)) : r.Succeeds s t := by
  obtain ⟨hresult, -⟩ | ⟨_, _, _, _, hends, -⟩ | hsucceeds := exchange_ended hs h hidle
  · cases hok.symm.trans hresult
  · cases hok.symm.trans hends.result
  · exact hsucceeds

/-- An exchange whose buffer is long enough never returns BufferTooShort (R129). -/
theorem exchange_ne_tooShort {r : Request} {s t : State} (hlong : r.tooShort = false) (h : exchange r s = .next t) :
    t.result ≠ some (.err .bufferTooShort) := by
  obtain ⟨-, -, rfl⟩ := exchange_next h
  rw [beginExchange_open hlong]
  obtain ⟨-, hnone⟩ | ⟨_, _, _, _, hends, -⟩ | ⟨_, _, _, _, _, hends, -⟩ := runExchange_waits_or_ends r s
  · simp [hnone]
  · simp [hends.result]
  · simp [hends.result]

/-! ### The buffer check (R109) -/

/-- Settles O34: the buffer check compares the buffer with the count, and only a request that fails it, or
BITS_IN_BUFFER, returns BufferTooShort. -/
theorem bufferIsCheckedBeforeTheBus : Obligations.BufferIsCheckedBeforeTheBus := by
  refine ⟨fun i s b n sent hs hb hn => ?_, fun i s t b n sent hb hn h => ?_, fun i s t hb hop h => ?_⟩
  · obtain ⟨r, hr, hshort⟩ := exists_request_tooShort_eq s hb
    exact tooShortIsAnError_of_request hs hr (hshort.trans (decide_eq_true hn))
  · obtain ⟨r, hr, hshort⟩ := exists_request_tooShort_eq s hb
    exact exchange_ne_tooShort (hshort.trans (decide_eq_false (Nat.not_lt.2 hn))) ((exec_eq_exchange hr).symm.trans h)
  · cases hr : requestOf s i with
    | some r =>
      have hlong : r.tooShort = false := by rw [Request.tooShort, requestOf_buffer_none hb hr]
      exact exchange_ne_tooShort hlong ((exec_eq_exchange hr).symm.trans h)
    | none =>
      obtain ⟨hp, r, hcause, hrespond⟩ := exec_local_respond hr h
      cases h.symm.trans (hrespond s rfl rfl hp)
      rw [respond_result]
      exact fun hshort => hop (hcause (Option.some.inj hshort))

/-! ### The calls of an exchange (R97, R116, R118) -/

/-- The calls a success makes in its bracket are bytes alone. -/
theorem Request.Succeeds.wireTrace_eq {r : Request} {s t : State} (h : r.Succeeds s t) :
    ∃ positions, positions.map Prod.fst = r.header s.cfg ++ r.payload ∧
      wireTrace t.trace = wireTrace s.trace ++ bracket positions := by
  obtain ⟨_, _, _, a, payload, hends, ⟨hnil, rfl⟩ | ⟨b, rfl⟩⟩ := h
  · refine ⟨(r.header s.cfg).zip (receivedBytes s.draws 0 (r.header s.cfg) a), ?_, hends.wireTrace_eq ?_⟩
    · simp [List.map_fst_zip, hnil]
    · simp [headerCall]
  · refine ⟨(r.header s.cfg).zip (receivedBytes s.draws 0 (r.header s.cfg) a) ++
      r.payload.zip (receivedBytes (s.draws + 1) 0 r.payload b), ?_, hends.wireTrace_eq ?_⟩
    · simp [List.map_fst_zip]
    · simp [headerCall, payloadCall]

/-- Settles O48: an operation that has ended made no bus call, or closed the bracket it opened. -/
theorem everyWireTraceIsOneBracket : Obligations.EveryWireTraceIsOneBracket := by
  intro i s t hs h hidle
  cases hr : requestOf s i with
  | none =>
    obtain ⟨r, rfl⟩ := exec_local hr hs.high h
    exact .inl rfl
  | some r =>
    rw [exec_eq_exchange hr] at h
    obtain ⟨-, htrace⟩ | ⟨_, _, _, positions, hends, hcalls⟩ | hsucceeds := exchange_ended hs h hidle
    · exact .inl htrace
    · exact .inr ⟨positions, hends.wireTrace_eq hcalls⟩
    · obtain ⟨positions, -, hwire⟩ := hsucceeds.wireTrace_eq
      exact .inr ⟨positions, hwire⟩

/-- Settles O49: the calls of a success, the header bytes being those `encode` gives. -/
theorem successfulCallTrace : Obligations.SuccessfulCallTrace := by
  intro i s t hdr v hs hencode h hidle hok
  obtain ⟨r, hr, rfl⟩ := exists_request_of_encode hencode
  rw [exec_eq_exchange hr] at h
  obtain ⟨_, _, _, a, payload, hends, hpayload⟩ := exchange_succeeds hs h hidle hok
  refine ⟨_, payload, ?_, List.map_fst_zip (receivedBytes_length s.draws 0 _ a).ge, ?_⟩
  · rw [hends.trace]
    simp [headerCall]
  · obtain ⟨-, rfl⟩ | ⟨b, rfl⟩ := hpayload
    · exact .inl rfl
    · exact .inr ⟨_, _, rfl, List.map_fst_zip (receivedBytes_length (s.draws + 1) 0 _ b).ge⟩

theorem sentBytes_append (x y : List WireEvent) : sentBytes (x ++ y) = sentBytes x ++ sentBytes y := by
  induction x with
  | nil => rfl
  | cons e x ih => cases e <;> simp [sentBytes, ih]

theorem sentBytes_bracket (positions : List (Byte × Byte)) :
    sentBytes (bracket positions) = positions.map Prod.fst := by
  have hbytes : sentBytes (wireBytes positions) = positions.map Prod.fst := by
    induction positions with
    | nil => rfl
    | cons p rest ih => exact congrArg (p.1 :: ·) ih
  rw [bracket_eq, sentBytes, sentBytes_append, hbytes]
  exact List.append_nil _

/-- A success sends the header and the payload of its request, whatever it received. -/
theorem Request.Succeeds.sentBytes_eq {r : Request} {s t : State} (h : r.Succeeds s t) :
    sentBytes (wireTrace t.trace) = sentBytes (wireTrace s.trace) ++ (r.header s.cfg ++ r.payload) := by
  obtain ⟨positions, hfst, hwire⟩ := h.wireTrace_eq
  rw [hwire, sentBytes_append, sentBytes_bracket, hfst]

/-- Settles O50: a success sends what its request says, and the request depends on the named data alone. -/
theorem sentBytesDependOnOperandsOnly : Obligations.SentBytesDependOnOperandsOnly := by
  intro i s s' t t' v v' hs hs' hcfg hbytes h h' hidle hidle' hok hok'
  have hrequest := requestOf_congr hcfg hbytes
  cases hr : requestOf s i with
  | none =>
    obtain ⟨r, rfl⟩ := exec_local hr hs.high h
    obtain ⟨r', rfl⟩ := exec_local (hrequest ▸ hr) hs'.high h'
    exact ⟨[], by simp, by simp⟩
  | some r =>
    rw [exec_eq_exchange hr] at h
    rw [exec_eq_exchange (hrequest ▸ hr)] at h'
    have hsent := (exchange_succeeds hs h hidle hok).sentBytes_eq
    have hsent' := (exchange_succeeds hs' h' hidle' hok').sentBytes_eq
    exact ⟨r.header s.cfg ++ r.payload, hsent, hcfg ▸ hsent'⟩

/-! ### Waiting for the environment (R119) -/

/-- Settles O52: before the header's answer the exchange is where step 4 left it, and between the answers where step 5
did. -/
theorem unansweredOperationWaits : Obligations.UnansweredOperationWaits := by
  intro i s hdr hs hencode hlong
  obtain ⟨r, hr, rfl⟩ := exists_request_of_encode hencode
  have hnext {t : State} (ht : runExchange (openExchange r s) = t) : exec i s = .next t := by
    rw [exec_eq_exchange hr, exchange_of_ready hs, beginExchange_open (requestOf_not_tooShort hlong hr), ht]
  constructor
  · intro ha
    exact ⟨_, hnext (runExchange_waits r s ha), rfl, rfl, rfl, rfl, rfl, rfl, rfl, by simp⟩
  · intro a hpayload ha hla
    have hwaits := runExchange_payloadWaits r s a (requestOf_payload_ne_nil hpayload hr) ha
    refine ⟨_, hnext hwaits, rfl, rfl, rfl, rfl, rfl, rfl, ?_⟩
    rw [(afterHeader_opened r a [] s).trace]
    simp [onWire_headerCall hla]

end Sys2Proof.Machine
end

section
/-! PROOF. When the answers come (42_protocol.md R119, R161): an exchange that waits goes on with later answers as if
they had been there; and with it the round trip on EchoBus (R117). -/

namespace Sys2Proof.Machine

/-! ### More answers behind those that have come -/

/-- The state in which the environment has these further answers to come. -/
def State.withLater (s : State) (later : List BusAnswer) : State := { s with answers := s.answers ++ later }

@[simp] theorem withLater_draws (s : State) (later : List BusAnswer) : (s.withLater later).draws = s.draws := rfl
@[simp] theorem withLater_payload (s : State) (later : List BusAnswer) : (s.withLater later).payload = s.payload := rfl
@[simp] theorem withLater_answers (s : State) (later : List BusAnswer) :
    (s.withLater later).answers = s.answers ++ later := rfl

theorem withLater_answers_of_nil {s : State} (ha : s.answers = []) (later : List BusAnswer) :
    (s.withLater later).answers = later := by rw [withLater_answers, ha, List.nil_append]

theorem withLater_withLater (s : State) (l l' : List BusAnswer) :
    (s.withLater l).withLater l' = s.withLater (l ++ l') := by
  rw [State.withLater, State.withLater, State.withLater, List.append_assoc]

theorem openExchange_withLater (r : Request) (s : State) (later : List BusAnswer) :
    (openExchange r s).withLater later = openExchange r (s.withLater later) := rfl

theorem raiseError_withLater (e : ErrorKind) (s : State) (later : List BusAnswer) :
    raiseError e (s.withLater later) = (raiseError e s).withLater later := by
  cases hsel : s.sel with
  | low => rw [raiseError_of_low e hsel, raiseError_of_low e (s := s.withLater later) hsel]; rfl
  | high =>
    have hne : s.sel ≠ .low := by simp [hsel]
    rw [raiseError_of_high e hne, raiseError_of_high e (s := s.withLater later) hne]; rfl

theorem respond_withLater (r : Result) (s : State) (later : List BusAnswer) :
    respond r (s.withLater later) = (respond r s).withLater later := by
  cases r with
  | ok v => rfl
  | err e => exact raiseError_withLater e s later

theorem spoilDest_withLater (s : State) (later : List BusAnswer) :
    spoilDest (s.withLater later) = (spoilDest s).withLater later := by
  cases hd : s.dest <;> simp [spoilDest, State.withLater, hd]

theorem storeReceived_withLater (ins : List Byte) (s : State) (later : List BusAnswer) :
    storeReceived ins (s.withLater later) = (storeReceived ins s).withLater later := by
  cases hd : s.dest <;> simp [storeReceived, State.withLater, hd]

theorem abortCall_withLater (s : State) (later : List BusAnswer) :
    abortCall (s.withLater later) = (abortCall s).withLater later := by
  rw [abortCall, spoilDest_withLater, raiseError_withLater]
  rfl

/-! ### A transition waits, or does not look behind the answer it takes -/

theorem headerStep_withLater (s : State) (later : List BusAnswer) :
    headerStep s = s ∨ headerStep (s.withLater later) = (headerStep s).withLater later := by
  match ha : s.answers with
  | [] => exact .inl (headerStep_waits ha)
  | .ok a :: rest =>
    have ha' : (s.withLater later).answers = .ok a :: (rest ++ later) := by simp [ha]
    rw [headerStep_ok ha, headerStep_ok ha']
    exact .inr rfl
  | .fail g :: rest =>
    have ha' : (s.withLater later).answers = .fail g :: (rest ++ later) := by simp [ha]
    rw [headerStep_fail ha, headerStep_fail ha', ← abortCall_withLater]
    exact .inr rfl

theorem payloadStep_withLater (s : State) (later : List BusAnswer) :
    payloadStep s = s ∨ payloadStep (s.withLater later) = (payloadStep s).withLater later := by
  by_cases hn : s.latches.len = 0
  · rw [payloadStep_empty hn, payloadStep_empty (s := s.withLater later) hn]
    exact .inr rfl
  have hn' : (s.withLater later).latches.len ≠ 0 := hn
  match ha : s.answers with
  | [] => exact .inl (payloadStep_waits hn ha)
  | .ok b :: rest =>
    have ha' : (s.withLater later).answers = .ok b :: (rest ++ later) := by simp [ha]
    have htransfer (ins : List Byte) : transferOk s.payload ins (rest ++ later) (s.withLater later) =
        (transferOk s.payload ins rest s).withLater later := rfl
    rw [payloadStep_ok hn ha, payloadStep_ok hn' ha', withLater_payload, withLater_draws, htransfer,
      storeReceived_withLater]
    exact .inr rfl
  | .fail g :: rest =>
    have ha' : (s.withLater later).answers = .fail g :: (rest ++ later) := by simp [ha]
    rw [payloadStep_fail hn ha, payloadStep_fail hn' ha', ← abortCall_withLater]
    exact .inr rfl

theorem advance_withLater (s : State) (later : List BusAnswer) :
    advance s = s ∨ advance (s.withLater later) = (advance s).withLater later := by
  cases hp : s.phase with
  | idle => exact .inl (advance_idle hp)
  | selected =>
    rw [advance_selected hp, advance_selected (s := s.withLater later) hp]
    exact headerStep_withLater s later
  | headerSent =>
    rw [advance_headerSent hp, advance_headerSent (s := s.withLater later) hp]
    exact payloadStep_withLater s later
  | payloadTransferred =>
    rw [advance_payloadTransferred hp, advance_payloadTransferred (s := s.withLater later) hp]
    exact .inr rfl

/-! ### Three transitions are enough (R112) -/

/-- How many transitions lead back to Idle at most, by PHASE. -/
def Phase.transitionsLeft : Phase → Nat
  | .idle => 0
  | .selected => 3
  | .headerSent => 2
  | .payloadTransferred => 1

theorem advance_transitionsLeft {s : State} (hsel : s.phase ≠ .idle → s.sel = .low) :
    advance s = s ∨ (advance s).phase.transitionsLeft < s.phase.transitionsLeft := by
  obtain ⟨-, -, -, hidle, hheaderOk, hheaderFail, hempty, hpayloadOk, hpayloadFail, hclose, hwait⟩ :=
    phaseTransitionTable
  cases hp : s.phase with
  | idle => exact .inl (hidle s hp)
  | selected =>
    have hlow := hsel (by simp [hp])
    match ha : s.answers with
    | [] => exact .inl (hwait s ha (.inl hp))
    | .ok a :: rest => exact .inr (by rw [(hheaderOk s a rest hp ha).1]; decide)
    | .fail g :: rest => exact .inr (by rw [(hheaderFail s g rest hp hlow ha).1]; decide)
  | headerSent =>
    have hlow := hsel (by simp [hp])
    by_cases hn : s.latches.len = 0
    · exact .inr (by rw [(hempty s hp hn).1]; decide)
    match ha : s.answers with
    | [] => exact .inl (hwait s ha (.inr ⟨hp, hn⟩))
    | .ok b :: rest => exact .inr (by rw [(hpayloadOk s b rest hp hn ha).1]; decide)
    | .fail g :: rest => exact .inr (by rw [(hpayloadFail s g rest hp hn hlow ha).1]; decide)
  | payloadTransferred => exact .inr (by rw [(hclose s hp).1]; decide)

/-- After as many transitions as are left, nothing advances. -/
theorem advance_iterate_fixed (n : Nat) {s : State} (hsel : s.sel = .low ↔ s.phase ≠ .idle)
    (hn : s.phase.transitionsLeft ≤ n) : advance (advance^[n] s) = advance^[n] s := by
  induction n generalizing s with
  | zero =>
    obtain hfixed | hless := advance_transitionsLeft hsel.2
    · exact hfixed
    · omega
  | succ n ih =>
    rw [Function.iterate_succ_apply]
    obtain hfixed | hless := advance_transitionsLeft hsel.2
    · rw [hfixed, Function.iterate_fixed hfixed, hfixed]
    · exact ih (advance_goesOnTo hsel).select (by omega)

theorem runExchange_advance {s : State} (hsel : s.sel = .low ↔ s.phase ≠ .idle) :
    runExchange (advance s) = runExchange s :=
  advance_iterate_fixed 3 hsel (by cases s.phase <;> decide)

theorem runExchange_of_idle {s : State} (h : s.phase = .idle) : runExchange s = s := by simp [runExchange, h]

/-! ### Going on with later answers (R119, R161) -/

theorem runExchange_advance_withLater {s : State} (hsel : s.sel = .low ↔ s.phase ≠ .idle) (later : List BusAnswer) :
    runExchange ((advance s).withLater later) = runExchange (s.withLater later) := by
  obtain hwaits | hmoves := advance_withLater s later
  · rw [hwaits]
  · rw [← hmoves]
    exact runExchange_advance (s := s.withLater later) hsel

/-- What a waiting exchange goes on to is what it would have come to with all answers there. -/
theorem runExchange_withLater {s : State} (hsel : s.sel = .low ↔ s.phase ≠ .idle) (later : List BusAnswer) :
    runExchange ((runExchange s).withLater later) = runExchange (s.withLater later) := by
  have hsel₁ := (advance_goesOnTo hsel).select
  have hsel₂ := (advance_goesOnTo hsel₁).select
  calc runExchange ((runExchange s).withLater later)
      = runExchange ((advance (advance s)).withLater later) := runExchange_advance_withLater hsel₂ later
    _ = runExchange ((advance s).withLater later) := runExchange_advance_withLater hsel₁ later
    _ = runExchange (s.withLater later) := runExchange_advance_withLater hsel later

/-- An operation that has returned does nothing more with later answers. -/
theorem runExchange_withLater_of_idle {s : State} (h : s.phase = .idle) (later : List BusAnswer) :
    runExchange (s.withLater later) = s.withLater later := runExchange_of_idle (s := s.withLater later) h

theorem beginExchange_withLater (r : Request) {s : State} (hidle : s.phase = .idle) (later : List BusAnswer) :
    runExchange ((beginExchange r s).withLater later) = beginExchange r (s.withLater later) := by
  cases hshort : r.tooShort with
  | false =>
    rw [beginExchange_open hshort, beginExchange_open hshort]
    exact runExchange_withLater (s := openExchange r s) (by simp) later
  | true =>
    have hlatch : latchOperands r (clearResult (s.withLater later)) =
        (latchOperands r (clearResult s)).withLater later := rfl
    rw [beginExchange_short hshort, beginExchange_short hshort, hlatch, raiseError_withLater]
    have hended : (endCall (raiseError .bufferTooShort (latchOperands r (clearResult s)))).phase = .idle :=
      raiseError_phase_of_idle .bufferTooShort (s := latchOperands r (clearResult s)) hidle
    exact runExchange_withLater_of_idle hended later

theorem requestOf_withLater (s : State) (later : List BusAnswer) (i : Instr) :
    requestOf (s.withLater later) i = requestOf s i := requestOf_congr rfl fun _ _ _ _ _ => rfl

theorem exec_withLater {i : Instr} {s t t' : State} {later : List BusAnswer} (h : exec i s = .next t)
    (h' : exec i (s.withLater later) = .next t') : runExchange (t.withLater later) = t' := by
  cases hr : requestOf s i with
  | none =>
    obtain ⟨hp, r, -, hrespond⟩ := exec_local_respond hr h
    cases h.symm.trans (hrespond s rfl rfl hp)
    cases h'.symm.trans (hrespond (s.withLater later) rfl rfl hp)
    rw [respond_withLater, runExchange_withLater_of_idle (respond_phase_of_idle r hp)]
  | some r =>
    rw [exec_eq_exchange hr] at h
    rw [exec_eq_exchange ((requestOf_withLater s later i).trans hr)] at h'
    obtain ⟨-, hp, rfl⟩ := exchange_next h
    obtain ⟨-, -, rfl⟩ := exchange_next h'
    exact beginExchange_withLater r hp later

/-- Settles O53: no transition looks behind the answer it takes, and three are enough to use all of them. -/
theorem answersMayComeLate : Obligations.AnswersMayComeLate := fun _ s _ _ now _ h h' =>
  exec_withLater (s := { s with answers := now }) h h'

/-! ### EchoBus answers an exchange (R117) -/

theorem State.Ready.withLater {s : State} (hs : s.Ready) (later : List BusAnswer) : (s.withLater later).Ready :=
  ⟨hs.legal, hs.idle, hs.high⟩

/-- The kind EchoBus reads off a one-byte header with a default tag, whatever HEADER_BYTE_ORDER says. -/
theorem readHeader_sentHeader {c : Config} (htags : c.tags = TagTable.standard) {k : Kind} (hk : k.format = .h8)
    (reg sub : Byte) : (readHeader (sentHeader c k reg sub)).map Prod.fst = some k := by
  have horder : sentHeader c k reg sub = wireHeader .highFirst (headerOf TagTable.standard k reg sub) := by
    rw [(headerBytesOnTheWire c k reg sub).1 hk, htags]
    exact ((headerBytesOnTheWire { c with tags := TagTable.standard, headerOrder := .highFirst } k reg sub).1 hk).symm
  have hdecode := wireHeaderDecodes k reg sub []
  rw [List.append_nil, hk] at hdecode
  rw [horder, readHeader, hdecode]
  rfl

theorem echoPayload_write {e : EchoBus} (h : e.kind = some .shortWrite) (out : List Byte) :
    echoPayload e out = ({ e with last := out }, .ok (List.replicate out.length 0x00#8)) := by
  simp [echoPayload, h, payloadDirection]

theorem echoPayload_read {e : EchoBus} (h : e.kind = some .shortRead) (out : List Byte) :
    echoPayload e out = (e, .ok ((e.last ++ List.replicate out.length 0x00#8).take out.length)) := by
  simp [echoPayload, h, payloadDirection]

theorem echoRound_of_idle (e : EchoBus) {s : State} (h : s.phase = .idle) : echoRound e s = (e, s) := by
  simp [echoRound, outgoing, h, runExchange_of_idle]

theorem echoRound_openExchange (e : EchoBus) (r : Request) (s : State) :
    echoRound e (openExchange r s) = ((echoHeader e (r.header s.cfg)).1,
      runExchange ((openExchange r s).withLater [(echoHeader e (r.header s.cfg)).2])) := rfl

theorem echoRound_afterHeader (e : EchoBus) {r : Request} (hp : r.payload ≠ []) (a : List Byte) (s : State) :
    echoRound e (afterHeader r a [] s) = ((echoPayload e r.payload).1,
      runExchange ((afterHeader r a [] s).withLater [(echoPayload e r.payload).2])) := by
  have hlen : (afterHeader r a [] s).latches.len ≠ 0 := by
    show r.payload.length ≠ 0
    simpa using hp
  have hout : outgoing (afterHeader r a [] s) = some r.payload := by
    show (if (afterHeader r a [] s).latches.len = 0 then none else some r.payload) = _
    rw [if_neg hlen]
  rw [echoRound, hout]
  rfl

/-- EchoBus serves an exchange without a payload: one transfer. -/
theorem echoServe_of_payload_nil (e : EchoBus) {r : Request} {s : State} (hp : r.payload = []) (ha : s.answers = [])
    {a : List Byte} {e' : EchoBus} (hheader : echoHeader e (r.header s.cfg) = (e', .ok a)) :
    echoServe e (openExchange r s) = (e', runExchange (openExchange r (s.withLater [.ok a]))) := by
  have hrun := runExchange_headerOnly r (s.withLater [.ok a]) a [] hp (withLater_answers_of_nil ha _)
  have hended : (runExchange (openExchange r (s.withLater [.ok a]))).phase = .idle := by rw [hrun]; rfl
  rw [echoServe, echoRound_openExchange, hheader, openExchange_withLater]
  exact echoRound_of_idle e' hended

/-- EchoBus serves an exchange with a payload: the answers of its two rounds might have been there from the start. -/
theorem echoServe_of_payload_ne_nil (e : EchoBus) {r : Request} {s : State} (hp : r.payload ≠ []) (ha : s.answers = [])
    {a : List Byte} {e' : EchoBus} (hheader : echoHeader e (r.header s.cfg) = (e', .ok a)) :
    echoServe e (openExchange r s) = ((echoPayload e' r.payload).1,
      runExchange (openExchange r (s.withLater [.ok a, (echoPayload e' r.payload).2]))) := by
  have hwaits := runExchange_payloadWaits r (s.withLater [.ok a]) a hp (withLater_answers_of_nil ha _)
  have hlater := runExchange_withLater (s := openExchange r (s.withLater [.ok a])) (by simp)
    [(echoPayload e' r.payload).2]
  rw [hwaits, openExchange_withLater, withLater_withLater] at hlater
  rw [echoServe, echoRound_openExchange, hheader, openExchange_withLater, hwaits, echoRound_afterHeader _ hp, hlater]
  rfl

/-- EchoBus answers a header with a zero for each byte, and takes the kind off it. -/
theorem echoHeader_sentHeader (e : EchoBus) {c : Config} (htags : c.tags = TagTable.standard) {k : Kind}
    (hk : k.format = .h8) (reg sub : Byte) :
    echoHeader e (sentHeader c k reg sub) =
      (⟨e.last, some k⟩, .ok (List.replicate (sentHeader c k reg sub).length 0x00#8)) := by
  rw [echoHeader, readHeader_sentHeader htags hk]

/-- What a waiting exchange of a one-byte header comes to when EchoBus serves it: it ends well, with the bytes EchoBus
answers stored. -/
theorem echoServe_ends {i : Instr} {s : State} {r : Request} {stored : List Byte → State → Prop} {spoiled : Nat → Prop}
    (hs : s.Ready) (ha : s.answers = []) (htags : s.cfg.tags = TagTable.standard) (hr : requestOf s i = some r)
    (hlong : r.tooShort = false) (hk : r.kind.format = .h8)
    (hspec : ∀ later, ExchangeSpec i (s.withLater later) (r.header s.cfg) r.payload (fun _ => .none) stored spoiled)
    {e e' : EchoBus} {b : List Byte} (he : echoPayload ⟨e.last, some r.kind⟩ r.payload = (e', .ok b))
    (hlen : b.length = r.payload.length) :
    exec i s = .next (openExchange r s) ∧ ∃ e₂ u, echoServe e (openExchange r s) = (e₂, u) ∧ Ended s u ∧
      u.answers = [] ∧ u.result = some (.ok .none) ∧ stored b u ∧ (r.payload ≠ [] → e₂ = e') := by
  have hnext (later : List BusAnswer) :
      exec i (s.withLater later) = .next (runExchange (openExchange r (s.withLater later))) := by
    rw [exec_eq_exchange ((requestOf_withLater s later i).trans hr), exchange_of_ready (hs.withLater later),
      beginExchange_open hlong]
  have hwaits : exec i s = .next (openExchange r s) := by
    rw [exec_eq_exchange hr, exchange_of_ready hs, beginExchange_open hlong, runExchange_waits r s ha]
  have hheader := echoHeader_sentHeader e htags hk r.reg r.sub
  have hended {later : List BusAnswer} {u : State} (h : Ended (s.withLater later) u) : Ended s u :=
    ⟨h.cfg, h.commands, h.phase, h.sel, h.quiet⟩
  refine ⟨hwaits, ?_⟩
  by_cases hp : r.payload = []
  · have hserve := echoServe_of_payload_nil e hp ha hheader
    have hnil : b = [] := List.length_eq_zero_iff.1 (by rw [hlen, hp]; rfl)
    obtain ⟨u, hu, hends, hanswers, hresult, hstored, -⟩ :=
      (hspec _).headerOnly hp _ [] (withLater_answers_of_nil ha _) List.length_replicate
    cases (hnext _).symm.trans hu
    exact ⟨_, _, hserve, hended hends, hanswers, hresult, hnil ▸ hstored, fun hne => absurd hp hne⟩
  · have hserve := echoServe_of_payload_ne_nil e hp ha hheader
    rw [he] at hserve
    obtain ⟨u, hu, hends, hanswers, hresult, hstored, -⟩ :=
      (hspec _).completes hp _ b [] (withLater_answers_of_nil ha _) List.length_replicate hlen
    cases (hnext _).symm.trans hu
    exact ⟨_, _, hserve, hended hends, hanswers, hresult, hstored, fun _ => rfl⟩

/-- SHORT_WRITE on EchoBus, which keeps the bytes if there are any. -/
theorem echoServe_shortWrite {s : State} {reg : Byte} {buffer : Buf} {n : Nat} (hs : s.Ready) (ha : s.answers = [])
    (htags : s.cfg.tags = TagTable.standard) (hn : n ≤ buffer.len) (e : EchoBus) :
    ∃ t e₂ u, exec (.shortWrite reg buffer n) s = .next t ∧ echoServe e t = (e₂, u) ∧ Ended s u ∧ u.answers = [] ∧
      u.result = some (.ok .none) ∧ u.mem = s.mem ∧ (n ≠ 0 → e₂.last = readBytes s.mem buffer n) := by
  have hlong := (tooShort_writeRequest s.mem .shortWrite reg 0#8 buffer n).trans (decide_eq_false (Nat.not_lt.2 hn))
  obtain ⟨ht, e₂, u, hserve, hended, hanswers, hresult, hmem, hlast⟩ := echoServe_ends (i := .shortWrite reg buffer n)
    (stored := keepsMemory s) (spoiled := fun _ => False) hs ha htags rfl hlong rfl
    (fun later => (shortWriteSendsTheBuffer _ reg buffer n (hs.withLater later)).1 hn) (e := e)
    (echoPayload_write rfl _) List.length_replicate
  refine ⟨_, e₂, u, ht, hserve, hended, hanswers, hresult, hmem, fun hne => ?_⟩
  rw [hlast fun hnil => hne (by rw [← readBytes_length s.mem buffer n]; exact List.length_eq_zero_iff.2 hnil)]
  rfl

/-- SHORT_READ on EchoBus, which answers with the bytes it kept, and zeros behind them. -/
theorem echoServe_shortRead {s : State} {reg : Byte} {out : Buf} {n : Nat} (hs : s.Ready) (hwf : s.mem.wf = true)
    (ha : s.answers = []) (htags : s.cfg.tags = TagTable.standard) (hn : n ≤ out.len) (e : EchoBus) :
    ∃ t e₂ u, exec (.shortRead reg out n) s = .next t ∧ echoServe e t = (e₂, u) ∧ u.result = some (.ok .none) ∧
      readBytes u.mem out n = (e.last ++ List.replicate n 0x00#8).take n := by
  have hlong := (tooShort_readRequest s.cfg .shortRead reg 0#8 out n).trans (decide_eq_false (Nat.not_lt.2 hn))
  have hecho := echoPayload_read (e := ⟨e.last, some .shortRead⟩) rfl (List.replicate n s.cfg.readFill)
  rw [List.length_replicate] at hecho
  obtain ⟨ht, e₂, u, hserve, -, -, hresult, ⟨hread, -⟩, -⟩ := echoServe_ends (i := .shortRead reg out n)
    (stored := readsInto s out n) (spoiled := fun a => ∃ j, j < n ∧ a = bufAddr out j) hs ha htags rfl hlong rfl
    (fun later => (shortReadFillsTheBuffer _ reg out n (hs.withLater later) hwf).1 hn)
    (e := e) hecho (by simp [readRequest])
  exact ⟨_, e₂, u, ht, hserve, hresult, hread⟩

/-- Settles O54: EchoBus keeps the written payload, and answers the read that follows with it. -/
theorem echoReturnsTheWrittenBytes : Obligations.EchoReturnsTheWrittenBytes := by
  intro e s reg buffer out n hs hwf ha htags hn hn'
  obtain ⟨t, e₂, v, ht, hserve, hended, hanswers, hresult, hmem, hlast⟩ :=
    echoServe_shortWrite (reg := reg) hs ha htags hn e
  have hv : v.Ready := ⟨hended.cfg ▸ hs.legal, hended.phase, hended.sel⟩
  obtain ⟨u, e₃, w, hu, hserve', hresult', hread⟩ :=
    echoServe_shortRead (reg := reg) hv (hmem ▸ hwf) hanswers (hended.cfg ▸ htags) hn' e₂
  have hechoed : (e₂.last ++ List.replicate n 0x00#8).take n = readBytes s.mem buffer n := by
    by_cases hz : n = 0
    · subst hz
      rfl
    · rw [hlast hz, List.take_left' (readBytes_length _ _ _)]
  refine ⟨t, u, ht, ?_⟩
  rw [hserve, hserve']
  exact ⟨hresult, hu, hresult', hread.trans hechoed⟩

end Sys2Proof.Machine
end

section
/-! PROOF. Presented operands that do not fit their type (42_protocol.md R108, 60_exceptions.md R132). -/

namespace Sys2Proof.Machine

/-- A command with a mask that does not fit is refused by the step. -/
theorem step_of_decode_error {s : State} {c : Command} {rest : List Command} {e : DecodeError} (hp : s.phase = .idle)
    (hc : s.commands = c :: rest) (hd : decodeCommand c = .error e) : step s = .refused (refusalOfDecode e) := by
  simp [step, fetch, hp, hc, hd]

theorem decodeMasks_of_wide {c : Command} {bits : Nat} (make : BitVec bits → BitVec bits → Instr)
    (h : 2 ^ bits ≤ c.andMask ∨ 2 ^ bits ≤ c.orMask) : decodeMasks c bits make = .error .maskTooWide := by
  have hwide : ¬ (c.andMask < 2 ^ bits ∧ c.orMask < 2 ^ bits) := by omega
  rw [decodeMasks, if_neg hwide]

section
variable {s : State} {c : Command} {rest : List Command} {bits : Nat} {make : BitVec bits → BitVec bits → Instr}

/-- A masked write with a mask that does not fit its variant. -/
theorem step_of_wide_mask (hp : s.phase = .idle) (hc : s.commands = c :: rest)
    (hd : decodeCommand c = decodeMasks c bits make) (h : 2 ^ bits ≤ c.andMask ∨ 2 ^ bits ≤ c.orMask) :
    step s = .refused .maskTooWide :=
  step_of_decode_error hp hc (hd.trans (decodeMasks_of_wide make h))

/-- A masked write whose masks fit its variant. -/
theorem step_of_fitting_masks (hp : s.phase = .idle) (hc : s.commands = c :: rest)
    (hd : decodeCommand c = decodeMasks c bits make) (hw : ∀ a o, (make a o).wellFormed s.cfg = true)
    (ha : c.andMask < 2 ^ bits) (ho : c.orMask < 2 ^ bits) :
    ∃ a o, a.toNat = c.andMask ∧ o.toNat = c.orMask ∧ step s = exec (make a o) { s with commands := rest } := by
  have hva := (BitVec.toNat_ofNat c.andMask bits).trans (Nat.mod_eq_of_lt ha)
  have hvo := (BitVec.toNat_ofNat c.orMask bits).trans (Nat.mod_eq_of_lt ho)
  exact ⟨BitVec.ofNat bits c.andMask, BitVec.ofNat bits c.orMask, hva, hvo,
    step_of_wellFormed hp hc (hd.trans (decodeMasks_toNat make _ _ hva.symm hvo.symm)) (hw _ _)⟩

end

/-- The codec operations with a scalar operand are refused when it does not fit. -/
theorem step_of_wide_scalar {s : State} {c : Command} {rest : List Command} (hp : s.phase = .idle)
    (hc : s.commands = c :: rest) (hop : c.op = .bitAt ∨ c.op = .bitsInRange) (h : 2 ^ s.cfg.scalarBits ≤ c.value) :
    step s = .refused .scalarTooWide := by
  have hwide : decide (c.value < 2 ^ s.cfg.scalarBits) = false := decide_eq_false (Nat.not_lt.2 h)
  obtain hop | hop := hop
  · exact step_of_not_wellFormed (i := .bitAt c.value c.position) hp hc (by rw [decodeCommand, hop]) hwide
  · exact step_of_not_wellFormed (i := .bitsInRange c.value c.low c.high) hp hc (by rw [decodeCommand, hop]) hwide

/-- Settles O18: the three widths of a masked write, each by what `decodeMasks` answers, and the scalar by the fetch. -/
theorem operandsTooWideAreRefused : Obligations.OperandsTooWideAreRefused := by
  intro s c rest hp hc
  have h1 (hop : c.op = .maskedWrite1) : decodeCommand c = decodeMasks c 8 (.maskedWrite1 c.reg c.sub) := by
    rw [decodeCommand, hop]
  have h2 (hop : c.op = .maskedWrite2) : decodeCommand c = decodeMasks c 16 (.maskedWrite2 c.reg c.sub) := by
    rw [decodeCommand, hop]
  have h4 (hop : c.op = .maskedWrite4) : decodeCommand c = decodeMasks c 32 (.maskedWrite4 c.reg c.sub) := by
    rw [decodeCommand, hop]
  exact ⟨fun hop => step_of_wide_mask hp hc (h1 hop), fun hop => step_of_wide_mask hp hc (h2 hop),
    fun hop => step_of_wide_mask hp hc (h4 hop), step_of_wide_scalar hp hc,
    fun hop => step_of_fitting_masks hp hc (h1 hop) fun _ _ => rfl,
    fun hop => step_of_fitting_masks hp hc (h2 hop) fun _ _ => rfl,
    fun hop => step_of_fitting_masks hp hc (h4 hop) fun _ _ => rfl⟩

end Sys2Proof.Machine
end

section
/-! PROOF. The convenience compositions (43_compositions.md R121 to R124): the fields GET_DEVICE_ID splits off, the
write WRITE_TX_BUFFER stands for, and the two names the spec leaves undescribed. -/

namespace Sys2Proof.Machine

/-! ### Fields of a little-endian byte sequence as bits of its word (R36, R73) -/

theorem littleEndian_singleton (b : Byte) : littleEndian [b] = b.toNat := rfl

/-- Byte 0 stands below all the others. -/
theorem littleEndian_cons_eq_toNat_append {w : Nat} {rest : List Byte} {x : BitVec w}
    (h : littleEndian rest = x.toNat) (b : Byte) : littleEndian (b :: rest) = (x ++ b).toNat := by
  rw [littleEndian, h, BitVec.toNat_append, ← Nat.shiftLeft_add_eq_or_of_lt b.isLt, Nat.shiftLeft_eq]
  omega

/-- The word whose number is the little-endian scalar of the bytes up to `floor(high / 8)` has the field as its bits. -/
theorem ofNat_fieldOf {bytes : List Byte} {w low high len : Nat} {x : BitVec w}
    (hx : littleEndian (bytes.take (bytesNeeded high)) = x.toNat) (hlen : high - low + 1 = len) :
    BitVec.ofNat len (fieldOf bytes low high) = x.extractLsb' low len := by
  have hfield : fieldOf bytes low high = (x.extractLsb' low len).toNat := by
    rw [fieldOf, bufferByteOrder, scalarOf, scalarOfLe_eq, hx, bitsOf_eq, hlen, BitVec.extractLsb'_toNat,
      Nat.shiftRight_eq_div_pow]
  rw [hfield, BitVec.ofNat_toNat, BitVec.setWidth_eq]

/-- The device-ID tuple of the four bytes received (R121): each field lies in the bytes up to its own last one. -/
theorem deviceIdOf_four (b0 b1 b2 b3 : Byte) :
    deviceIdOf [b0, b1, b2, b3] = .deviceId (b3 ++ b2) b1 (b0.extractLsb' 4 4) (b0.extractLsb' 0 4) := by
  have hword : littleEndian [b0, b1, b2, b3] = (b3 ++ b2 ++ b1 ++ b0).toNat :=
    littleEndian_cons_eq_toNat_append (littleEndian_cons_eq_toNat_append
      (littleEndian_cons_eq_toNat_append (littleEndian_singleton b3) b2) b1) b0
  have hhalf : littleEndian [b0, b1] = (b1 ++ b0).toNat :=
    littleEndian_cons_eq_toNat_append (littleEndian_singleton b1) b0
  have hridtag : BitVec.ofNat 16 (fieldOf [b0, b1, b2, b3] 16 31) = b3 ++ b2 :=
    calc BitVec.ofNat 16 (fieldOf [b0, b1, b2, b3] 16 31)
      _ = (b3 ++ b2 ++ b1 ++ b0).extractLsb' 16 16 := ofNat_fieldOf hword rfl
      _ = (b3 ++ b2 ++ b1).extractLsb' 8 16 := BitVec.extractLsb'_append_eq_of_le (by decide)
      _ = (b3 ++ b2).extractLsb' 0 16 := BitVec.extractLsb'_append_eq_of_le (by decide)
      _ = b3 ++ b2 := BitVec.extractLsb'_eq_self
  have hmodel : BitVec.ofNat 8 (fieldOf [b0, b1, b2, b3] 8 15) = b1 :=
    calc BitVec.ofNat 8 (fieldOf [b0, b1, b2, b3] 8 15)
      _ = (b1 ++ b0).extractLsb' 8 8 := ofNat_fieldOf hhalf rfl
      _ = b1.extractLsb' 0 8 := BitVec.extractLsb'_append_eq_of_le (by decide)
      _ = b1 := BitVec.extractLsb'_eq_self
  have hver : BitVec.ofNat 4 (fieldOf [b0, b1, b2, b3] 4 7) = b0.extractLsb' 4 4 :=
    ofNat_fieldOf (littleEndian_singleton b0) rfl
  have hrev : BitVec.ofNat 4 (fieldOf [b0, b1, b2, b3] 0 3) = b0.extractLsb' 0 4 :=
    ofNat_fieldOf (littleEndian_singleton b0) rfl
  rw [deviceIdOf, hridtag, hmodel, hver, hrev]

/-! ### GET_DEVICE_ID (R121) -/

/-- Settles O31: the exchange of `deviceIdRequest`, whose destination is local to the operation. -/
theorem deviceIdIsReadAndSplit : Obligations.DeviceIdIsReadAndSplit := by
  intro s hs
  refine exchangeSpec_of_request (r := deviceIdRequest s.cfg) hs rfl rfl (fun bytes hlen => ?_) (fun _ _ _ hmem => hmem)
    (fun _ _ _ _ => rfl)
  obtain ⟨b0, b1, b2, b3, rfl⟩ := List.length_eq_four.1 hlen
  exact deviceIdOf_four b0 b1 b2 b3

/-! ### WRITE_TX_BUFFER (R122) -/

section
variable {s : State} (buffer : Buf) (n : Nat)

theorem requestOf_writeTxBuffer_of_short (h : s.cfg.txBufMode = .short) :
    requestOf s (.writeTxBuffer buffer n) =
      some (writeRequest s.mem .shortWrite s.cfg.txBufReg 0#8 buffer (min n 1024)) := by
  rw [requestOf, txBufRequest, h, txCount, txBufMax]

theorem requestOf_writeTxBuffer_of_full (h : s.cfg.txBufMode = .full) :
    requestOf s (.writeTxBuffer buffer n) =
      some (writeRequest s.mem .fullWrite s.cfg.txBufReg s.cfg.txBufSub buffer (min n 1024)) := by
  rw [requestOf, txBufRequest, h, txCount, txBufMax]

end

/-- Settles O32: the exchange of a `writeRequest` with the clamped count, of the kind TXBUF_MODE names. -/
theorem txBufferWriteIsClamped : Obligations.TxBufferWriteIsClamped := by
  intro s buffer n hs
  have hshort (h : s.cfg.txBufMode = .short) :=
    exchangeSpec_of_write hs (requestOf_writeTxBuffer_of_short buffer n h)
  have hfull (h : s.cfg.txBufMode = .full) :=
    exchangeSpec_of_write hs (requestOf_writeTxBuffer_of_full buffer n h)
  refine ⟨fun hn h => (hshort h).1 hn, fun hn h => (hfull h).1 hn, fun hn => ?_⟩
  cases h : s.cfg.txBufMode with
  | short => exact (hshort h).2 hn
  | full => exact (hfull h).2 hn

/-! ### WRITE_TXB_OFFSET and READ_TXB_OFFSET (R123, R124) -/

/-- Settles O33: the two arms answer the refusal without looking at the state. -/
theorem undescribedCompositionsAreRefused : Obligations.UndescribedCompositionsAreRefused :=
  fun _ => ⟨rfl, rfl⟩

end Sys2Proof.Machine
end

section
/-! PROOF. Errors (60_exceptions.md R128 to R138): where each of the three comes from, and what a failed call leaves
behind. -/

namespace Sys2Proof.Machine

/-! ### The errors of the operations that do not reach the bus (R128, R129) -/

/-- ENCODE_HEADER fails for an unknown kind only (R90). -/
theorem exec_encodeHeader_err {kindRaw : Nat} {reg sub : Byte} {s t : State} {e : ErrorKind}
    (h : exec (.encodeHeader kindRaw reg sub) s = .next t) (he : t.result = some (.err e)) :
    e = .invalidTransactionKind ∧ s.cfg.kindCodes.kind kindRaw = none := by
  obtain ⟨-, -, heffect⟩ := whenAccepted_next h
  split at heffect <;> cases heffect <;> cases he
  next hk => exact ⟨rfl, hk⟩

/-- BITS_IN_BUFFER fails for a buffer too short only (R73). -/
theorem exec_bitsInBuffer_err {b : Buf} {low high : Nat} {s t : State} {e : ErrorKind}
    (h : exec (.bitsInBuffer b low high) s = .next t) (he : t.result = some (.err e)) :
    e = .bufferTooShort ∧ b.len < high / 8 + 1 := by
  obtain ⟨-, -, heffect⟩ := whenAccepted_next h
  split at heffect
  · split at heffect <;> cases heffect <;> cases he
    next hshort => exact ⟨rfl, hshort⟩
  · cases heffect

/-- An operation that does not reach the bus fails as ENCODE_HEADER or as BITS_IN_BUFFER. -/
theorem exec_local_err {i : Instr} {s t : State} {e : ErrorKind} (hr : requestOf s i = none) (h : exec i s = .next t)
    (he : t.result = some (.err e)) :
    (e = .invalidTransactionKind ∧ ∃ kindRaw reg sub, i = .encodeHeader kindRaw reg sub ∧
      s.cfg.kindCodes.kind kindRaw = none) ∨
    (e = .bufferTooShort ∧ ∃ b low high, i = .bitsInBuffer b low high ∧ b.len < high / 8 + 1) := by
  cases i <;> cases hr
  case bitAt | bitsInRange =>
    obtain ⟨-, -, heffect⟩ := whenAccepted_next h
    split at heffect <;> cases heffect
    cases he
  case bitsInBuffer =>
    obtain ⟨rfl, hshort⟩ := exec_bitsInBuffer_err h he
    exact .inr ⟨rfl, _, _, _, rfl, hshort⟩
  case encodeHeader =>
    obtain ⟨rfl, hk⟩ := exec_encodeHeader_err h he
    exact .inl ⟨rfl, _, _, _, rfl, hk⟩
  case writeTxbOffset | readTxbOffset => cases h

/-! ### The errors of an exchange (R129, R130) -/

/-- The call begun in `s` has ended in `t` on a failed transfer: the failure is the last answer it took, and the last
transfer in its bracket (R110). -/
def State.EndsOnFailure (s t : State) : Prop :=
  ∃ used g rest mem calls, s.answers = used ++ .fail g :: rest ∧
    s.Ends t rest (.err .busTransferFailure) mem calls ∧ Line.scan .selected calls = some .failed

/-- A run of an exchange that has ended with an error ended on a failed transfer. -/
theorem runExchange_err {r : Request} {s : State} {e : ErrorKind}
    (he : (runExchange (openExchange r s)).result = some (.err e)) :
    e = .busTransferFailure ∧ s.EndsOnFailure (runExchange (openExchange r s)) := by
  obtain ⟨-, h⟩ | ⟨g, rest, ha, h⟩ | ⟨a, rest, -, -, h⟩ | ⟨a, -, -, h⟩ | ⟨a, g, rest, -, ha, h⟩ |
    ⟨a, b, rest, -, -, h⟩ := runExchange_cases r s <;> rw [h] at he ⊢
  · cases he
  · have hends := headerFails_ends r s g rest
    cases he.symm.trans hends.result
    exact ⟨rfl, [], g, rest, _, _, ha, hends, rfl⟩
  · cases he.symm.trans (headerOnly_ends r s a rest).result
  · cases he
  · have hends := payloadFails_ends r s a g rest
    cases he.symm.trans hends.result
    exact ⟨rfl, [.ok a], g, rest, _, _, ha, hends, rfl⟩
  · cases he.symm.trans (completes_ends r s a b rest).result

/-- An exchange fails on its buffer check or on a failed transfer, in no other way. -/
theorem exchange_err {r : Request} {s t : State} {e : ErrorKind} (h : exchange r s = .next t)
    (he : t.result = some (.err e)) :
    (e = .bufferTooShort ∧ r.tooShort = true) ∨ (e = .busTransferFailure ∧ s.EndsOnFailure t) := by
  obtain ⟨-, -, rfl⟩ := exchange_next h
  cases hshort : r.tooShort with
  | true =>
    rw [beginExchange_short hshort] at he
    cases he
    exact .inl ⟨rfl, rfl⟩
  | false =>
    rw [beginExchange_open hshort] at he ⊢
    exact .inr (runExchange_err he)

/-- A request that fails the check of R109 has a buffer shorter than its count. -/
theorem payloadBuffer_of_tooShort {i : Instr} {s : State} {r : Request} (hr : requestOf s i = some r)
    (hshort : r.tooShort = true) : ∃ b n sent, payloadBuffer i = some (b, n, sent) ∧ b.len < n := by
  by_contra! hlong
  cases hshort.symm.trans (requestOf_not_tooShort hlong hr)

/-! ### The cause of an error (R128 to R130) -/

/-- Settles O35: the errors of the operations off the bus and of an exchange, each with its cause. -/
theorem eachErrorHasItsCause : Obligations.EachErrorHasItsCause := by
  intro i s t h
  cases hr : requestOf s i with
  | none =>
    refine ⟨fun he => ?_, fun he => ?_, fun he => ?_⟩
    · obtain ⟨-, hcause⟩ | ⟨⟨⟩, -⟩ := exec_local_err hr h he
      exact hcause
    · obtain ⟨⟨⟩, -⟩ | ⟨-, hcause⟩ := exec_local_err hr h he
      exact .inr hcause
    · obtain ⟨⟨⟩, -⟩ | ⟨⟨⟩, -⟩ := exec_local_err hr h he
  | some r =>
    rw [exec_eq_exchange hr] at h
    refine ⟨fun he => ?_, fun he => ?_, fun he => ?_⟩
    · obtain ⟨⟨⟩, -⟩ | ⟨⟨⟩, -⟩ := exchange_err h he
    · obtain ⟨-, hshort⟩ | ⟨⟨⟩, -⟩ := exchange_err h he
      exact .inl (payloadBuffer_of_tooShort hr hshort)
    · obtain ⟨⟨⟩, -⟩ | ⟨-, used, g, rest, _, _, ha, hends, -⟩ := exchange_err h he
      exact ⟨used ++ [.fail g], g, by simp [ha, hends.answers], by simp⟩

/-! ### After an error (R136 to R138) -/

/-- A block that has returned from an operation is ready again. -/
theorem Ended.ready {s t : State} (h : Ended s t) (hs : s.Ready) : t.Ready :=
  ⟨h.cfg ▸ hs.legal, h.phase, h.sel⟩

/-- A call that ended where the deselect is allowed has closed its bracket (R116). -/
theorem State.Ends.outside {s t : State} {rest : List BusAnswer} {r : Result} {mem : Memory} {calls : List Event}
    {l : Line} (h : s.Ends t rest r mem calls) (hcalls : Line.scan .selected calls = some l)
    (hraise : l.after .selHigh = some .raised) (hs : Line.scan .outside s.trace = some .outside) :
    Line.scan .outside t.trace = some .outside := by
  have hselected : Line.scan .outside (s.trace ++ [.busBegin s.cfg.busCfg, .selLow] ++ calls) = some l := by
    rw [scan_append, scan_append, hs]
    exact hcalls
  rw [h.trace, ← List.singleton_append (x := Event.selHigh), ← List.append_assoc]
  exact scan_release hselected hraise

/-- Settles O36: an error off the bus or from the buffer check makes no bus call, and a failed call is in its bracket no
more. -/
theorem afterAnErrorTheBlockIsReady : Obligations.AfterAnErrorTheBlockIsReady := by
  intro i s t e hs h he
  cases hr : requestOf s i with
  | none =>
    obtain ⟨r, rfl⟩ := exec_local hr hs.high h
    exact ⟨⟨hs.legal, hs.idle, hs.high⟩, id⟩
  | some r =>
    rw [exec_eq_exchange hr] at h
    obtain ⟨-, hshort⟩ | ⟨-, _, _, _, _, _, -, hends, hcalls⟩ := exchange_err h he
    · cases h.symm.trans (exchange_of_short hs hshort)
      exact ⟨⟨hs.legal, hs.idle, hs.high⟩, id⟩
    · exact ⟨hends.ended.ready hs, hends.outside hcalls rfl⟩

end Sys2Proof.Machine
end

section
/-! PROOF. The parameters (10_state.md R25, 70_reset_and_hazards.md R150): nothing the machine does changes one, wherever
PHASE and SEL stand. -/

namespace Sys2Proof.Machine

/-! ### The ends of an operation -/

@[simp] theorem raiseError_cfg (e : ErrorKind) (s : State) : (raiseError e s).cfg = s.cfg := by
  by_cases hsel : s.sel = .low
  · rw [raiseError_of_low e hsel, deliver_cfg, release_cfg]
  · rw [raiseError_of_high e hsel, deliver_cfg]

@[simp] theorem respond_cfg (r : Result) (s : State) : (respond r s).cfg = s.cfg := by
  cases r with
  | ok v => exact deliver_cfg _ s
  | err e => exact raiseError_cfg e s

@[simp] theorem spoilDest_cfg (s : State) : (spoilDest s).cfg = s.cfg := (spoilDest_frame s).1

@[simp] theorem storeReceived_cfg (ins : List Byte) (s : State) : (storeReceived ins s).cfg = s.cfg :=
  (storeReceived_frame ins s).1

@[simp] theorem abortCall_cfg (s : State) : (abortCall s).cfg = s.cfg := by
  rw [abortCall, endCall_cfg, raiseError_cfg, spoilDest_cfg]

/-! ### The transitions of PHASE (R112) -/

@[simp] theorem headerStep_cfg (s : State) : (headerStep s).cfg = s.cfg := by
  match ha : s.answers with
  | [] => rw [headerStep_waits ha]
  | .ok a :: rest => rw [headerStep_ok ha, headerDone_cfg, transferOk_cfg]
  | .fail g :: rest => rw [headerStep_fail ha, abortCall_cfg, transferFailed_cfg]

@[simp] theorem payloadStep_cfg (s : State) : (payloadStep s).cfg = s.cfg := by
  by_cases hn : s.latches.len = 0
  · rw [payloadStep_empty hn, payloadDone_cfg]
  match ha : s.answers with
  | [] => rw [payloadStep_waits hn ha]
  | .ok b :: rest => rw [payloadStep_ok hn ha, payloadDone_cfg, storeReceived_cfg, transferOk_cfg]
  | .fail g :: rest => rw [payloadStep_fail hn ha, abortCall_cfg, transferFailed_cfg]

@[simp] theorem closeStep_cfg (s : State) : (closeStep s).cfg = s.cfg := (closeStep_spec s).1

@[simp] theorem advance_cfg (s : State) : (advance s).cfg = s.cfg := by
  cases hp : s.phase with
  | idle => rw [advance_idle hp]
  | selected => rw [advance_selected hp, headerStep_cfg]
  | headerSent => rw [advance_headerSent hp, payloadStep_cfg]
  | payloadTransferred => rw [advance_payloadTransferred hp, closeStep_cfg]

@[simp] theorem runExchange_cfg (s : State) : (runExchange s).cfg = s.cfg := by
  rw [runExchange, advance_cfg, advance_cfg, advance_cfg]

/-! ### Whole operations -/

/-- A buffer too short ends the call before the bus (R109); any other exchange runs from its opened state. -/
@[simp] theorem beginExchange_cfg (r : Request) (s : State) : (beginExchange r s).cfg = s.cfg := by
  cases hshort : r.tooShort with
  | false => rw [beginExchange_open hshort, runExchange_cfg, openExchange_cfg]
  | true => rw [beginExchange_short hshort, endCall_cfg, raiseError_cfg, latchOperands_cfg, clearResult_cfg]

/-- An operation returns a result alone, or it is an exchange. -/
theorem exec_cfg {i : Instr} {s t : State} (h : exec i s = .next t) : t.cfg = s.cfg := by
  cases hr : requestOf s i with
  | none =>
    obtain ⟨hp, r, -, hrespond⟩ := exec_local_respond hr h
    cases h.symm.trans (hrespond s rfl rfl hp)
    exact respond_cfg r s
  | some r =>
    rw [exec_eq_exchange hr] at h
    obtain ⟨-, -, rfl⟩ := exchange_next h
    exact beginExchange_cfg r s

/-- Settles O46: a step goes on with an exchange, waits for the caller, or runs a presented operation. -/
theorem parametersAreConstant : Obligations.ParametersAreConstant := by
  intro s t hstep
  obtain ⟨-, rfl⟩ | ⟨-, -, rfl⟩ | ⟨c, rest, i, -, -, -, -, he⟩ := step_next hstep
  · exact runExchange_cfg s
  · rfl
  · exact exec_cfg (s := { s with commands := rest }) he

end Sys2Proof.Machine
end
